-- ==== Sys2Proof/Word.lean ====
section
/-! DEFINITION. The words of the machine (rules R100, R150): bytes, halfwords (the manual's "words" of 16 bits),
32-bit words (its "longwords", the width of every register and address), and the four-bit register number. -/

namespace Sys2Proof

/-- A byte of memory (rule R100). -/
abbrev Byte := BitVec 8

/-- A 16-bit datum or instruction word (the manual's word, rules R100 and R150). -/
abbrev Half := BitVec 16

/-- A 32-bit register or address (the manual's longword, rules R20 and R100). -/
abbrev Word := BitVec 32

/-- A general register number (rule R152). -/
abbrev Reg := BitVec 4

end Sys2Proof
end

