-- ==== Sys2Proof/Syntax.lean ====
section
/-! DEFINITION. The instruction set of spec/opcode_table.json: one constructor per row, in the table's order.
Operands stand in assembler order (source first, rule R164). A register field is four bits wide (rule R152); an
immediate and a branch displacement are the bit fields of the word, which their meanings extend (rules R154, R155);
a displacement that only counts operands from a base (md, nd4, nmd, nd8 and the GBR and MOVA d forms, rule R155) is a
count, and Sys2Proof/WellFormed.lean says how large it may be. -/

namespace Sys2Proof

/-- The 142 instructions of the SH7147's SH-2 CPU (rule R159). -/
inductive Instr where
  -- data transfer (rules R200 to R239)
  /-- `MOV #imm,Rn`, `1110nnnniiiiiiii` (rule R201). -/
  | movImm (imm : BitVec 8) (n : Reg)
  /-- `MOV.W @(disp,PC),Rn`, `1001nnnndddddddd` (rule R202). -/
  | movWPc (disp : Nat) (n : Reg)
  /-- `MOV.L @(disp,PC),Rn`, `1101nnnndddddddd` (rule R203). -/
  | movLPc (disp : Nat) (n : Reg)
  /-- `MOV Rm,Rn`, `0110nnnnmmmm0011` (rule R204). -/
  | mov (m : Reg) (n : Reg)
  /-- `MOV.B Rm,@Rn`, `0010nnnnmmmm0000` (rule R205). -/
  | movBStore (m : Reg) (n : Reg)
  /-- `MOV.W Rm,@Rn`, `0010nnnnmmmm0001` (rule R206). -/
  | movWStore (m : Reg) (n : Reg)
  /-- `MOV.L Rm,@Rn`, `0010nnnnmmmm0010` (rule R207). -/
  | movLStore (m : Reg) (n : Reg)
  /-- `MOV.B @Rm,Rn`, `0110nnnnmmmm0000` (rule R208). -/
  | movBLoad (m : Reg) (n : Reg)
  /-- `MOV.W @Rm,Rn`, `0110nnnnmmmm0001` (rule R209). -/
  | movWLoad (m : Reg) (n : Reg)
  /-- `MOV.L @Rm,Rn`, `0110nnnnmmmm0010` (rule R210). -/
  | movLLoad (m : Reg) (n : Reg)
  /-- `MOV.B Rm,@-Rn`, `0010nnnnmmmm0100` (rule R211). -/
  | movBStoreDec (m : Reg) (n : Reg)
  /-- `MOV.W Rm,@-Rn`, `0010nnnnmmmm0101` (rule R212). -/
  | movWStoreDec (m : Reg) (n : Reg)
  /-- `MOV.L Rm,@-Rn`, `0010nnnnmmmm0110` (rule R213). -/
  | movLStoreDec (m : Reg) (n : Reg)
  /-- `MOV.B @Rm+,Rn`, `0110nnnnmmmm0100` (rule R214). -/
  | movBLoadInc (m : Reg) (n : Reg)
  /-- `MOV.W @Rm+,Rn`, `0110nnnnmmmm0101` (rule R215). -/
  | movWLoadInc (m : Reg) (n : Reg)
  /-- `MOV.L @Rm+,Rn`, `0110nnnnmmmm0110` (rule R216). -/
  | movLLoadInc (m : Reg) (n : Reg)
  /-- `MOV.B R0,@(disp,Rn)`, `10000000nnnndddd` (rule R217). -/
  | movBStoreDisp (disp : Nat) (n : Reg)
  /-- `MOV.W R0,@(disp,Rn)`, `10000001nnnndddd` (rule R218). -/
  | movWStoreDisp (disp : Nat) (n : Reg)
  /-- `MOV.L Rm,@(disp,Rn)`, `0001nnnnmmmmdddd` (rule R219). -/
  | movLStoreDisp (m : Reg) (disp : Nat) (n : Reg)
  /-- `MOV.B @(disp,Rm),R0`, `10000100mmmmdddd` (rule R220). -/
  | movBLoadDisp (disp : Nat) (m : Reg)
  /-- `MOV.W @(disp,Rm),R0`, `10000101mmmmdddd` (rule R221). -/
  | movWLoadDisp (disp : Nat) (m : Reg)
  /-- `MOV.L @(disp,Rm),Rn`, `0101nnnnmmmmdddd` (rule R222). -/
  | movLLoadDisp (disp : Nat) (m : Reg) (n : Reg)
  /-- `MOV.B Rm,@(R0,Rn)`, `0000nnnnmmmm0100` (rule R223). -/
  | movBStoreIdx (m : Reg) (n : Reg)
  /-- `MOV.W Rm,@(R0,Rn)`, `0000nnnnmmmm0101` (rule R224). -/
  | movWStoreIdx (m : Reg) (n : Reg)
  /-- `MOV.L Rm,@(R0,Rn)`, `0000nnnnmmmm0110` (rule R225). -/
  | movLStoreIdx (m : Reg) (n : Reg)
  /-- `MOV.B @(R0,Rm),Rn`, `0000nnnnmmmm1100` (rule R226). -/
  | movBLoadIdx (m : Reg) (n : Reg)
  /-- `MOV.W @(R0,Rm),Rn`, `0000nnnnmmmm1101` (rule R227). -/
  | movWLoadIdx (m : Reg) (n : Reg)
  /-- `MOV.L @(R0,Rm),Rn`, `0000nnnnmmmm1110` (rule R228). -/
  | movLLoadIdx (m : Reg) (n : Reg)
  /-- `MOV.B R0,@(disp,GBR)`, `11000000dddddddd` (rule R229). -/
  | movBStoreGbr (disp : Nat)
  /-- `MOV.W R0,@(disp,GBR)`, `11000001dddddddd` (rule R230). -/
  | movWStoreGbr (disp : Nat)
  /-- `MOV.L R0,@(disp,GBR)`, `11000010dddddddd` (rule R231). -/
  | movLStoreGbr (disp : Nat)
  /-- `MOV.B @(disp,GBR),R0`, `11000100dddddddd` (rule R232). -/
  | movBLoadGbr (disp : Nat)
  /-- `MOV.W @(disp,GBR),R0`, `11000101dddddddd` (rule R233). -/
  | movWLoadGbr (disp : Nat)
  /-- `MOV.L @(disp,GBR),R0`, `11000110dddddddd` (rule R234). -/
  | movLLoadGbr (disp : Nat)
  /-- `MOVA @(disp,PC),R0`, `11000111dddddddd` (rule R235). -/
  | mova (disp : Nat)
  /-- `MOVT Rn`, `0000nnnn00101001` (rule R236). -/
  | movt (n : Reg)
  /-- `SWAP.B Rm,Rn`, `0110nnnnmmmm1000` (rule R237). -/
  | swapB (m : Reg) (n : Reg)
  /-- `SWAP.W Rm,Rn`, `0110nnnnmmmm1001` (rule R238). -/
  | swapW (m : Reg) (n : Reg)
  /-- `XTRCT Rm,Rn`, `0010nnnnmmmm1101` (rule R239). -/
  | xtrct (m : Reg) (n : Reg)
  -- arithmetic (rules R251 to R283)
  /-- `ADD Rm,Rn`, `0011nnnnmmmm1100` (rule R251). -/
  | add (m : Reg) (n : Reg)
  /-- `ADD #imm,Rn`, `0111nnnniiiiiiii` (rule R252). -/
  | addImm (imm : BitVec 8) (n : Reg)
  /-- `ADDC Rm,Rn`, `0011nnnnmmmm1110` (rule R253). -/
  | addc (m : Reg) (n : Reg)
  /-- `ADDV Rm,Rn`, `0011nnnnmmmm1111` (rule R254). -/
  | addv (m : Reg) (n : Reg)
  /-- `CMP/EQ #imm,R0`, `10001000iiiiiiii` (rule R255). -/
  | cmpEqImm (imm : BitVec 8)
  /-- `CMP/EQ Rm,Rn`, `0011nnnnmmmm0000` (rule R256). -/
  | cmpEq (m : Reg) (n : Reg)
  /-- `CMP/HS Rm,Rn`, `0011nnnnmmmm0010` (rule R257). -/
  | cmpHs (m : Reg) (n : Reg)
  /-- `CMP/GE Rm,Rn`, `0011nnnnmmmm0011` (rule R258). -/
  | cmpGe (m : Reg) (n : Reg)
  /-- `CMP/HI Rm,Rn`, `0011nnnnmmmm0110` (rule R259). -/
  | cmpHi (m : Reg) (n : Reg)
  /-- `CMP/GT Rm,Rn`, `0011nnnnmmmm0111` (rule R260). -/
  | cmpGt (m : Reg) (n : Reg)
  /-- `CMP/PL Rn`, `0100nnnn00010101` (rule R261). -/
  | cmpPl (n : Reg)
  /-- `CMP/PZ Rn`, `0100nnnn00010001` (rule R262). -/
  | cmpPz (n : Reg)
  /-- `CMP/STR Rm,Rn`, `0010nnnnmmmm1100` (rule R263). -/
  | cmpStr (m : Reg) (n : Reg)
  /-- `DIV1 Rm,Rn`, `0011nnnnmmmm0100` (rule R264). -/
  | div1 (m : Reg) (n : Reg)
  /-- `DIV0S Rm,Rn`, `0010nnnnmmmm0111` (rule R265). -/
  | div0s (m : Reg) (n : Reg)
  /-- `DIV0U`, `0000000000011001` (rule R266). -/
  | div0u
  /-- `DMULS.L Rm,Rn`, `0011nnnnmmmm1101` (rule R267). -/
  | dmulsL (m : Reg) (n : Reg)
  /-- `DMULU.L Rm,Rn`, `0011nnnnmmmm0101` (rule R268). -/
  | dmuluL (m : Reg) (n : Reg)
  /-- `DT Rn`, `0100nnnn00010000` (rule R269). -/
  | dt (n : Reg)
  /-- `EXTS.B Rm,Rn`, `0110nnnnmmmm1110` (rule R270). -/
  | extsB (m : Reg) (n : Reg)
  /-- `EXTS.W Rm,Rn`, `0110nnnnmmmm1111` (rule R271). -/
  | extsW (m : Reg) (n : Reg)
  /-- `EXTU.B Rm,Rn`, `0110nnnnmmmm1100` (rule R272). -/
  | extuB (m : Reg) (n : Reg)
  /-- `EXTU.W Rm,Rn`, `0110nnnnmmmm1101` (rule R273). -/
  | extuW (m : Reg) (n : Reg)
  /-- `MAC.L @Rm+,@Rn+`, `0000nnnnmmmm1111` (rule R274). -/
  | macL (m : Reg) (n : Reg)
  /-- `MAC.W @Rm+,@Rn+`, `0100nnnnmmmm1111` (rule R275). -/
  | macW (m : Reg) (n : Reg)
  /-- `MUL.L Rm,Rn`, `0000nnnnmmmm0111` (rule R276). -/
  | mulL (m : Reg) (n : Reg)
  /-- `MULS.W Rm,Rn`, `0010nnnnmmmm1111` (rule R277). -/
  | mulsW (m : Reg) (n : Reg)
  /-- `MULU.W Rm,Rn`, `0010nnnnmmmm1110` (rule R278). -/
  | muluW (m : Reg) (n : Reg)
  /-- `NEG Rm,Rn`, `0110nnnnmmmm1011` (rule R279). -/
  | neg (m : Reg) (n : Reg)
  /-- `NEGC Rm,Rn`, `0110nnnnmmmm1010` (rule R280). -/
  | negc (m : Reg) (n : Reg)
  /-- `SUB Rm,Rn`, `0011nnnnmmmm1000` (rule R281). -/
  | sub (m : Reg) (n : Reg)
  /-- `SUBC Rm,Rn`, `0011nnnnmmmm1010` (rule R282). -/
  | subc (m : Reg) (n : Reg)
  /-- `SUBV Rm,Rn`, `0011nnnnmmmm1011` (rule R283). -/
  | subv (m : Reg) (n : Reg)
  -- logic (rules R302 to R315)
  /-- `AND Rm,Rn`, `0010nnnnmmmm1001` (rule R302). -/
  | andReg (m : Reg) (n : Reg)
  /-- `AND #imm,R0`, `11001001iiiiiiii` (rule R303). -/
  | andImm (imm : BitVec 8)
  /-- `AND.B #imm,@(R0,GBR)`, `11001101iiiiiiii` (rule R304). -/
  | andB (imm : BitVec 8)
  /-- `NOT Rm,Rn`, `0110nnnnmmmm0111` (rule R305). -/
  | notReg (m : Reg) (n : Reg)
  /-- `OR Rm,Rn`, `0010nnnnmmmm1011` (rule R306). -/
  | orReg (m : Reg) (n : Reg)
  /-- `OR #imm,R0`, `11001011iiiiiiii` (rule R307). -/
  | orImm (imm : BitVec 8)
  /-- `OR.B #imm,@(R0,GBR)`, `11001111iiiiiiii` (rule R308). -/
  | orB (imm : BitVec 8)
  /-- `TAS.B @Rn`, `0100nnnn00011011` (rule R309). -/
  | tasB (n : Reg)
  /-- `TST Rm,Rn`, `0010nnnnmmmm1000` (rule R310). -/
  | tst (m : Reg) (n : Reg)
  /-- `TST #imm,R0`, `11001000iiiiiiii` (rule R311). -/
  | tstImm (imm : BitVec 8)
  /-- `TST.B #imm,@(R0,GBR)`, `11001100iiiiiiii` (rule R312). -/
  | tstB (imm : BitVec 8)
  /-- `XOR Rm,Rn`, `0010nnnnmmmm1010` (rule R313). -/
  | xorReg (m : Reg) (n : Reg)
  /-- `XOR #imm,R0`, `11001010iiiiiiii` (rule R314). -/
  | xorImm (imm : BitVec 8)
  /-- `XOR.B #imm,@(R0,GBR)`, `11001110iiiiiiii` (rule R315). -/
  | xorB (imm : BitVec 8)
  -- shift (rules R321 to R334)
  /-- `ROTL Rn`, `0100nnnn00000100` (rule R321). -/
  | rotl (n : Reg)
  /-- `ROTR Rn`, `0100nnnn00000101` (rule R322). -/
  | rotr (n : Reg)
  /-- `ROTCL Rn`, `0100nnnn00100100` (rule R323). -/
  | rotcl (n : Reg)
  /-- `ROTCR Rn`, `0100nnnn00100101` (rule R324). -/
  | rotcr (n : Reg)
  /-- `SHAL Rn`, `0100nnnn00100000` (rule R325). -/
  | shal (n : Reg)
  /-- `SHAR Rn`, `0100nnnn00100001` (rule R326). -/
  | shar (n : Reg)
  /-- `SHLL Rn`, `0100nnnn00000000` (rule R327). -/
  | shll (n : Reg)
  /-- `SHLR Rn`, `0100nnnn00000001` (rule R328). -/
  | shlr (n : Reg)
  /-- `SHLL2 Rn`, `0100nnnn00001000` (rule R329). -/
  | shll2 (n : Reg)
  /-- `SHLR2 Rn`, `0100nnnn00001001` (rule R330). -/
  | shlr2 (n : Reg)
  /-- `SHLL8 Rn`, `0100nnnn00011000` (rule R331). -/
  | shll8 (n : Reg)
  /-- `SHLR8 Rn`, `0100nnnn00011001` (rule R332). -/
  | shlr8 (n : Reg)
  /-- `SHLL16 Rn`, `0100nnnn00101000` (rule R333). -/
  | shll16 (n : Reg)
  /-- `SHLR16 Rn`, `0100nnnn00101001` (rule R334). -/
  | shlr16 (n : Reg)
  -- branch (rules R341 to R351)
  /-- `BF label`, `10001011dddddddd` (rule R341). -/
  | bf (disp : BitVec 8)
  /-- `BF/S label`, `10001111dddddddd` (rule R342). -/
  | bfS (disp : BitVec 8)
  /-- `BT label`, `10001001dddddddd` (rule R343). -/
  | bt (disp : BitVec 8)
  /-- `BT/S label`, `10001101dddddddd` (rule R344). -/
  | btS (disp : BitVec 8)
  /-- `BRA label`, `1010dddddddddddd` (rule R345). -/
  | bra (disp : BitVec 12)
  /-- `BRAF Rm`, `0000mmmm00100011` (rule R346). -/
  | braf (m : Reg)
  /-- `BSR label`, `1011dddddddddddd` (rule R347). -/
  | bsr (disp : BitVec 12)
  /-- `BSRF Rm`, `0000mmmm00000011` (rule R348). -/
  | bsrf (m : Reg)
  /-- `JMP @Rm`, `0100mmmm00101011` (rule R349). -/
  | jmp (m : Reg)
  /-- `JSR @Rm`, `0100mmmm00001011` (rule R350). -/
  | jsr (m : Reg)
  /-- `RTS`, `0000000000001011` (rule R351). -/
  | rts
  -- system control (rules R361 to R391)
  /-- `CLRT`, `0000000000001000` (rule R361). -/
  | clrt
  /-- `SETT`, `0000000000011000` (rule R362). -/
  | sett
  /-- `CLRMAC`, `0000000000101000` (rule R363). -/
  | clrmac
  /-- `NOP`, `0000000000001001` (rule R364). -/
  | nop
  /-- `LDC Rm,SR`, `0100mmmm00001110` (rule R365). -/
  | ldcSr (m : Reg)
  /-- `LDC Rm,GBR`, `0100mmmm00011110` (rule R366). -/
  | ldcGbr (m : Reg)
  /-- `LDC Rm,VBR`, `0100mmmm00101110` (rule R367). -/
  | ldcVbr (m : Reg)
  /-- `LDC.L @Rm+,SR`, `0100mmmm00000111` (rule R368). -/
  | ldcLSr (m : Reg)
  /-- `LDC.L @Rm+,GBR`, `0100mmmm00010111` (rule R369). -/
  | ldcLGbr (m : Reg)
  /-- `LDC.L @Rm+,VBR`, `0100mmmm00100111` (rule R370). -/
  | ldcLVbr (m : Reg)
  /-- `LDS Rm,MACH`, `0100mmmm00001010` (rule R371). -/
  | ldsMach (m : Reg)
  /-- `LDS Rm,MACL`, `0100mmmm00011010` (rule R372). -/
  | ldsMacl (m : Reg)
  /-- `LDS Rm,PR`, `0100mmmm00101010` (rule R373). -/
  | ldsPr (m : Reg)
  /-- `LDS.L @Rm+,MACH`, `0100mmmm00000110` (rule R374). -/
  | ldsLMach (m : Reg)
  /-- `LDS.L @Rm+,MACL`, `0100mmmm00010110` (rule R375). -/
  | ldsLMacl (m : Reg)
  /-- `LDS.L @Rm+,PR`, `0100mmmm00100110` (rule R376). -/
  | ldsLPr (m : Reg)
  /-- `STC SR,Rn`, `0000nnnn00000010` (rule R377). -/
  | stcSr (n : Reg)
  /-- `STC GBR,Rn`, `0000nnnn00010010` (rule R378). -/
  | stcGbr (n : Reg)
  /-- `STC VBR,Rn`, `0000nnnn00100010` (rule R379). -/
  | stcVbr (n : Reg)
  /-- `STC.L SR,@-Rn`, `0100nnnn00000011` (rule R380). -/
  | stcLSr (n : Reg)
  /-- `STC.L GBR,@-Rn`, `0100nnnn00010011` (rule R381). -/
  | stcLGbr (n : Reg)
  /-- `STC.L VBR,@-Rn`, `0100nnnn00100011` (rule R382). -/
  | stcLVbr (n : Reg)
  /-- `RTE`, `0000000000101011` (rule R383). -/
  | rte
  /-- `STS MACH,Rn`, `0000nnnn00001010` (rule R384). -/
  | stsMach (n : Reg)
  /-- `STS MACL,Rn`, `0000nnnn00011010` (rule R385). -/
  | stsMacl (n : Reg)
  /-- `STS PR,Rn`, `0000nnnn00101010` (rule R386). -/
  | stsPr (n : Reg)
  /-- `STS.L MACH,@-Rn`, `0100nnnn00000010` (rule R387). -/
  | stsLMach (n : Reg)
  /-- `STS.L MACL,@-Rn`, `0100nnnn00010010` (rule R388). -/
  | stsLMacl (n : Reg)
  /-- `STS.L PR,@-Rn`, `0100nnnn00100010` (rule R389). -/
  | stsLPr (n : Reg)
  /-- `SLEEP`, `0000000000011011` (rule R390). -/
  | sleep
  /-- `TRAPA #imm`, `11000011iiiiiiii` (rule R391). -/
  | trapa (imm : BitVec 8)
  deriving DecidableEq, Repr

end Sys2Proof
end

