-- ==== Sys2Proof/WellFormed.lean ====
section
/-! DEFINITION. When a term of Instr is an instruction the encoding has room for: a displacement that counts operands
must fit its field of 4 or 8 bits (rules R153 and R155). Every other operand has exactly the values of its field. -/

namespace Sys2Proof

/-- Why a term of Instr is no instruction. -/
inductive IllFormed where
  /-- The displacement of an md, nd4 or nmd format does not fit 4 bits (rule R155). -/
  | disp4TooLarge
  /-- The displacement of an nd8 format, of a GBR form or of MOVA does not fit 8 bits (rule R155). -/
  | disp8TooLarge
  deriving DecidableEq, Repr

/-- The check of a 4-bit displacement. -/
def checkDisp4 (disp : Nat) : Option IllFormed := if disp < 16 then none else some .disp4TooLarge

/-- The check of an 8-bit displacement. -/
def checkDisp8 (disp : Nat) : Option IllFormed := if disp < 256 then none else some .disp8TooLarge

/-- The first check that refuses the instruction, if any. -/
def Instr.illFormed : Instr → Option IllFormed
  | .movImm _ _ => none
  | .movWPc disp _ => checkDisp8 disp
  | .movLPc disp _ => checkDisp8 disp
  | .mov _ _ => none
  | .movBStore _ _ => none
  | .movWStore _ _ => none
  | .movLStore _ _ => none
  | .movBLoad _ _ => none
  | .movWLoad _ _ => none
  | .movLLoad _ _ => none
  | .movBStoreDec _ _ => none
  | .movWStoreDec _ _ => none
  | .movLStoreDec _ _ => none
  | .movBLoadInc _ _ => none
  | .movWLoadInc _ _ => none
  | .movLLoadInc _ _ => none
  | .movBStoreDisp disp _ => checkDisp4 disp
  | .movWStoreDisp disp _ => checkDisp4 disp
  | .movLStoreDisp _ disp _ => checkDisp4 disp
  | .movBLoadDisp disp _ => checkDisp4 disp
  | .movWLoadDisp disp _ => checkDisp4 disp
  | .movLLoadDisp disp _ _ => checkDisp4 disp
  | .movBStoreIdx _ _ => none
  | .movWStoreIdx _ _ => none
  | .movLStoreIdx _ _ => none
  | .movBLoadIdx _ _ => none
  | .movWLoadIdx _ _ => none
  | .movLLoadIdx _ _ => none
  | .movBStoreGbr disp => checkDisp8 disp
  | .movWStoreGbr disp => checkDisp8 disp
  | .movLStoreGbr disp => checkDisp8 disp
  | .movBLoadGbr disp => checkDisp8 disp
  | .movWLoadGbr disp => checkDisp8 disp
  | .movLLoadGbr disp => checkDisp8 disp
  | .mova disp => checkDisp8 disp
  | .movt _ => none
  | .swapB _ _ => none
  | .swapW _ _ => none
  | .xtrct _ _ => none
  | .add _ _ => none
  | .addImm _ _ => none
  | .addc _ _ => none
  | .addv _ _ => none
  | .cmpEqImm _ => none
  | .cmpEq _ _ => none
  | .cmpHs _ _ => none
  | .cmpGe _ _ => none
  | .cmpHi _ _ => none
  | .cmpGt _ _ => none
  | .cmpPl _ => none
  | .cmpPz _ => none
  | .cmpStr _ _ => none
  | .div1 _ _ => none
  | .div0s _ _ => none
  | .div0u => none
  | .dmulsL _ _ => none
  | .dmuluL _ _ => none
  | .dt _ => none
  | .extsB _ _ => none
  | .extsW _ _ => none
  | .extuB _ _ => none
  | .extuW _ _ => none
  | .macL _ _ => none
  | .macW _ _ => none
  | .mulL _ _ => none
  | .mulsW _ _ => none
  | .muluW _ _ => none
  | .neg _ _ => none
  | .negc _ _ => none
  | .sub _ _ => none
  | .subc _ _ => none
  | .subv _ _ => none
  | .andReg _ _ => none
  | .andImm _ => none
  | .andB _ => none
  | .notReg _ _ => none
  | .orReg _ _ => none
  | .orImm _ => none
  | .orB _ => none
  | .tasB _ => none
  | .tst _ _ => none
  | .tstImm _ => none
  | .tstB _ => none
  | .xorReg _ _ => none
  | .xorImm _ => none
  | .xorB _ => none
  | .rotl _ => none
  | .rotr _ => none
  | .rotcl _ => none
  | .rotcr _ => none
  | .shal _ => none
  | .shar _ => none
  | .shll _ => none
  | .shlr _ => none
  | .shll2 _ => none
  | .shlr2 _ => none
  | .shll8 _ => none
  | .shlr8 _ => none
  | .shll16 _ => none
  | .shlr16 _ => none
  | .bf _ => none
  | .bfS _ => none
  | .bt _ => none
  | .btS _ => none
  | .bra _ => none
  | .braf _ => none
  | .bsr _ => none
  | .bsrf _ => none
  | .jmp _ => none
  | .jsr _ => none
  | .rts => none
  | .clrt => none
  | .sett => none
  | .clrmac => none
  | .nop => none
  | .ldcSr _ => none
  | .ldcGbr _ => none
  | .ldcVbr _ => none
  | .ldcLSr _ => none
  | .ldcLGbr _ => none
  | .ldcLVbr _ => none
  | .ldsMach _ => none
  | .ldsMacl _ => none
  | .ldsPr _ => none
  | .ldsLMach _ => none
  | .ldsLMacl _ => none
  | .ldsLPr _ => none
  | .stcSr _ => none
  | .stcGbr _ => none
  | .stcVbr _ => none
  | .stcLSr _ => none
  | .stcLGbr _ => none
  | .stcLVbr _ => none
  | .rte => none
  | .stsMach _ => none
  | .stsMacl _ => none
  | .stsPr _ => none
  | .stsLMach _ => none
  | .stsLMacl _ => none
  | .stsLPr _ => none
  | .sleep => none
  | .trapa _ => none

/-- The instruction has an encoding. -/
def Instr.wellFormed (i : Instr) : Bool := i.illFormed.isNone

end Sys2Proof
end

