-- ==== Sys2Proof/Decode.lean ====
section
/-! DEFINITION. The decoder of rule R159 and the encoder beside it. Every field of every format (rule R153) is made of
whole nibbles, so an instruction word is taken as its four nibbles a b c d (bits 15..12, 11..8, 7..4, 3..0), and the
opcode map of rule R160 is one match on the fixed ones. An instruction word is big-endian in memory (rule R150). -/

namespace Sys2Proof

/-- Why a word, or a list of bytes, is no instruction (rule R162). -/
inductive DecodeError where
  /-- H'F000 to H'FFFF: an undefined code whose decoding raises an illegal instruction exception. -/
  | illegalCode
  /-- Any other undefined code: the manual guarantees nothing of its decoding. -/
  | undefinedCode
  /-- Fewer than two bytes: no instruction word is there (rule R150). -/
  | truncated
  deriving DecidableEq, Repr

/-- Nibble `k` of an instruction word, counted from bit 0. -/
def nib (w : Half) (k : Nat) : BitVec 4 := w.extractLsb' (4 * k) 4

/-- The instruction word of four nibbles, bits 15..12 first. -/
def word4 (a b c d : BitVec 4) : Half := a ++ b ++ c ++ d

/-- An 8-bit displacement of two nibbles, zero-extended (rule R155). -/
def disp8 (c d : BitVec 4) : Nat := 16 * c.toNat + d.toNat

/-- The words with bits 15..12 = 0000 (rule R160). -/
def decode0 (b c d : BitVec 4) : Except DecodeError Instr :=
  match d.toNat with
  | 2 =>
    match c.toNat with
    | 0 => .ok (.stcSr b)
    | 1 => .ok (.stcGbr b)
    | 2 => .ok (.stcVbr b)
    | _ => .error .undefinedCode
  | 3 =>
    match c.toNat with
    | 0 => .ok (.bsrf b)
    | 2 => .ok (.braf b)
    | _ => .error .undefinedCode
  | 4 => .ok (.movBStoreIdx c b)
  | 5 => .ok (.movWStoreIdx c b)
  | 6 => .ok (.movLStoreIdx c b)
  | 7 => .ok (.mulL c b)
  | 8 =>
    match c.toNat with
    | 0 => if b = 0 then .ok (.clrt) else .error .undefinedCode
    | 1 => if b = 0 then .ok (.sett) else .error .undefinedCode
    | 2 => if b = 0 then .ok (.clrmac) else .error .undefinedCode
    | _ => .error .undefinedCode
  | 9 =>
    match c.toNat with
    | 0 => if b = 0 then .ok (.nop) else .error .undefinedCode
    | 1 => if b = 0 then .ok (.div0u) else .error .undefinedCode
    | 2 => .ok (.movt b)
    | _ => .error .undefinedCode
  | 10 =>
    match c.toNat with
    | 0 => .ok (.stsMach b)
    | 1 => .ok (.stsMacl b)
    | 2 => .ok (.stsPr b)
    | _ => .error .undefinedCode
  | 11 =>
    match c.toNat with
    | 0 => if b = 0 then .ok (.rts) else .error .undefinedCode
    | 1 => if b = 0 then .ok (.sleep) else .error .undefinedCode
    | 2 => if b = 0 then .ok (.rte) else .error .undefinedCode
    | _ => .error .undefinedCode
  | 12 => .ok (.movBLoadIdx c b)
  | 13 => .ok (.movWLoadIdx c b)
  | 14 => .ok (.movLLoadIdx c b)
  | 15 => .ok (.macL c b)
  | _ => .error .undefinedCode

/-- The words with bits 15..12 = 0010 (rule R160). -/
def decode2 (b c d : BitVec 4) : Except DecodeError Instr :=
  match d.toNat with
  | 0 => .ok (.movBStore c b)
  | 1 => .ok (.movWStore c b)
  | 2 => .ok (.movLStore c b)
  | 4 => .ok (.movBStoreDec c b)
  | 5 => .ok (.movWStoreDec c b)
  | 6 => .ok (.movLStoreDec c b)
  | 7 => .ok (.div0s c b)
  | 8 => .ok (.tst c b)
  | 9 => .ok (.andReg c b)
  | 10 => .ok (.xorReg c b)
  | 11 => .ok (.orReg c b)
  | 12 => .ok (.cmpStr c b)
  | 13 => .ok (.xtrct c b)
  | 14 => .ok (.muluW c b)
  | 15 => .ok (.mulsW c b)
  | _ => .error .undefinedCode

/-- The words with bits 15..12 = 0011 (rule R160). -/
def decode3 (b c d : BitVec 4) : Except DecodeError Instr :=
  match d.toNat with
  | 0 => .ok (.cmpEq c b)
  | 2 => .ok (.cmpHs c b)
  | 3 => .ok (.cmpGe c b)
  | 4 => .ok (.div1 c b)
  | 5 => .ok (.dmuluL c b)
  | 6 => .ok (.cmpHi c b)
  | 7 => .ok (.cmpGt c b)
  | 8 => .ok (.sub c b)
  | 10 => .ok (.subc c b)
  | 11 => .ok (.subv c b)
  | 12 => .ok (.add c b)
  | 13 => .ok (.dmulsL c b)
  | 14 => .ok (.addc c b)
  | 15 => .ok (.addv c b)
  | _ => .error .undefinedCode

/-- The words with bits 15..12 = 0100 (rule R160). -/
def decode4 (b c d : BitVec 4) : Except DecodeError Instr :=
  match d.toNat with
  | 0 =>
    match c.toNat with
    | 0 => .ok (.shll b)
    | 1 => .ok (.dt b)
    | 2 => .ok (.shal b)
    | _ => .error .undefinedCode
  | 1 =>
    match c.toNat with
    | 0 => .ok (.shlr b)
    | 1 => .ok (.cmpPz b)
    | 2 => .ok (.shar b)
    | _ => .error .undefinedCode
  | 2 =>
    match c.toNat with
    | 0 => .ok (.stsLMach b)
    | 1 => .ok (.stsLMacl b)
    | 2 => .ok (.stsLPr b)
    | _ => .error .undefinedCode
  | 3 =>
    match c.toNat with
    | 0 => .ok (.stcLSr b)
    | 1 => .ok (.stcLGbr b)
    | 2 => .ok (.stcLVbr b)
    | _ => .error .undefinedCode
  | 4 =>
    match c.toNat with
    | 0 => .ok (.rotl b)
    | 2 => .ok (.rotcl b)
    | _ => .error .undefinedCode
  | 5 =>
    match c.toNat with
    | 0 => .ok (.rotr b)
    | 1 => .ok (.cmpPl b)
    | 2 => .ok (.rotcr b)
    | _ => .error .undefinedCode
  | 6 =>
    match c.toNat with
    | 0 => .ok (.ldsLMach b)
    | 1 => .ok (.ldsLMacl b)
    | 2 => .ok (.ldsLPr b)
    | _ => .error .undefinedCode
  | 7 =>
    match c.toNat with
    | 0 => .ok (.ldcLSr b)
    | 1 => .ok (.ldcLGbr b)
    | 2 => .ok (.ldcLVbr b)
    | _ => .error .undefinedCode
  | 8 =>
    match c.toNat with
    | 0 => .ok (.shll2 b)
    | 1 => .ok (.shll8 b)
    | 2 => .ok (.shll16 b)
    | _ => .error .undefinedCode
  | 9 =>
    match c.toNat with
    | 0 => .ok (.shlr2 b)
    | 1 => .ok (.shlr8 b)
    | 2 => .ok (.shlr16 b)
    | _ => .error .undefinedCode
  | 10 =>
    match c.toNat with
    | 0 => .ok (.ldsMach b)
    | 1 => .ok (.ldsMacl b)
    | 2 => .ok (.ldsPr b)
    | _ => .error .undefinedCode
  | 11 =>
    match c.toNat with
    | 0 => .ok (.jsr b)
    | 1 => .ok (.tasB b)
    | 2 => .ok (.jmp b)
    | _ => .error .undefinedCode
  | 14 =>
    match c.toNat with
    | 0 => .ok (.ldcSr b)
    | 1 => .ok (.ldcGbr b)
    | 2 => .ok (.ldcVbr b)
    | _ => .error .undefinedCode
  | 15 => .ok (.macW c b)
  | _ => .error .undefinedCode

/-- The words with bits 15..12 = 0110 (rule R160). -/
def decode6 (b c d : BitVec 4) : Except DecodeError Instr :=
  match d.toNat with
  | 0 => .ok (.movBLoad c b)
  | 1 => .ok (.movWLoad c b)
  | 2 => .ok (.movLLoad c b)
  | 3 => .ok (.mov c b)
  | 4 => .ok (.movBLoadInc c b)
  | 5 => .ok (.movWLoadInc c b)
  | 6 => .ok (.movLLoadInc c b)
  | 7 => .ok (.notReg c b)
  | 8 => .ok (.swapB c b)
  | 9 => .ok (.swapW c b)
  | 10 => .ok (.negc c b)
  | 11 => .ok (.neg c b)
  | 12 => .ok (.extuB c b)
  | 13 => .ok (.extuW c b)
  | 14 => .ok (.extsB c b)
  | _ => .ok (.extsW c b)

/-- The words with bits 15..12 = 1000 (rule R160). -/
def decode8 (b c d : BitVec 4) : Except DecodeError Instr :=
  match b.toNat with
  | 0 => .ok (.movBStoreDisp d.toNat c)
  | 1 => .ok (.movWStoreDisp d.toNat c)
  | 4 => .ok (.movBLoadDisp d.toNat c)
  | 5 => .ok (.movWLoadDisp d.toNat c)
  | 8 => .ok (.cmpEqImm (c ++ d))
  | 9 => .ok (.bt (c ++ d))
  | 11 => .ok (.bf (c ++ d))
  | 13 => .ok (.btS (c ++ d))
  | 15 => .ok (.bfS (c ++ d))
  | _ => .error .undefinedCode

/-- The words with bits 15..12 = 1100 (rule R160). -/
def decodeC (b c d : BitVec 4) : Except DecodeError Instr :=
  match b.toNat with
  | 0 => .ok (.movBStoreGbr (disp8 c d))
  | 1 => .ok (.movWStoreGbr (disp8 c d))
  | 2 => .ok (.movLStoreGbr (disp8 c d))
  | 3 => .ok (.trapa (c ++ d))
  | 4 => .ok (.movBLoadGbr (disp8 c d))
  | 5 => .ok (.movWLoadGbr (disp8 c d))
  | 6 => .ok (.movLLoadGbr (disp8 c d))
  | 7 => .ok (.mova (disp8 c d))
  | 8 => .ok (.tstImm (c ++ d))
  | 9 => .ok (.andImm (c ++ d))
  | 10 => .ok (.xorImm (c ++ d))
  | 11 => .ok (.orImm (c ++ d))
  | 12 => .ok (.tstB (c ++ d))
  | 13 => .ok (.andB (c ++ d))
  | 14 => .ok (.xorB (c ++ d))
  | _ => .ok (.orB (c ++ d))

/-- The instruction of four nibbles (rules R159, R160, R162). -/
def decodeNibbles (a b c d : BitVec 4) : Except DecodeError Instr :=
  match a.toNat with
  | 0 => decode0 b c d
  | 1 => .ok (.movLStoreDisp c d.toNat b)
  | 2 => decode2 b c d
  | 3 => decode3 b c d
  | 4 => decode4 b c d
  | 5 => .ok (.movLLoadDisp d.toNat c b)
  | 6 => decode6 b c d
  | 7 => .ok (.addImm (c ++ d) b)
  | 8 => decode8 b c d
  | 9 => .ok (.movWPc (disp8 c d) b)
  | 10 => .ok (.bra (b ++ c ++ d))
  | 11 => .ok (.bsr (b ++ c ++ d))
  | 12 => decodeC b c d
  | 13 => .ok (.movLPc (disp8 c d) b)
  | 14 => .ok (.movImm (c ++ d) b)
  | _ => .error .illegalCode

/-- The instruction of a 16-bit word: a total function (rule R159). -/
def decode (w : Half) : Except DecodeError Instr := decodeNibbles (nib w 3) (nib w 2) (nib w 1) (nib w 0)

/-- The halfword whose high byte lies at the lower address (rules R101, R150). -/
def halfOfBytes (hi lo : Byte) : Half := hi ++ lo

/-- The instruction at the head of a list of bytes, and the bytes after it. -/
def decodeBytes : List Byte → Except DecodeError (Instr × List Byte)
  | hi :: lo :: rest =>
    match decode (halfOfBytes hi lo) with
    | .ok i => .ok (i, rest)
    | .error e => .error e
  | _ => .error .truncated

/-- The bytes of an instruction word as memory holds them, lowest address first. -/
def bytesOfHalf (w : Half) : List Byte := [w.extractLsb' 8 8, w.extractLsb' 0 8]

/-- The instruction the decoder reads from the bits of a table row: one 16-bit word, laid out big-endian. -/
def decodeTableWord (_nbits w : Nat) : Option Instr :=
  match decodeBytes (bytesOfHalf (BitVec.ofNat 16 w)) with
  | .ok (i, _) => some i
  | .error _ => none

/-- The nibble of a 4-bit displacement. -/
def d4 (disp : Nat) : BitVec 4 := BitVec.ofNat 4 disp

/-- The high nibble of an 8-bit displacement. -/
def d8hi (disp : Nat) : BitVec 4 := BitVec.ofNat 4 (disp / 16)

/-- Nibble `k` of an 8-bit immediate or branch displacement. -/
def nib8 (v : BitVec 8) (k : Nat) : BitVec 4 := v.extractLsb' (4 * k) 4

/-- Nibble `k` of a 12-bit branch displacement. -/
def nib12 (v : BitVec 12) (k : Nat) : BitVec 4 := v.extractLsb' (4 * k) 4

/-- The word of an instruction, from the encodings of spec/opcode_table.json. A displacement too large for its field
(an ill-formed term) is cut to the field. -/
def encode : Instr → Half
  | .movImm imm n => word4 0xE n (nib8 imm 1) (nib8 imm 0)
  | .movWPc disp n => word4 0x9 n (d8hi disp) (d4 disp)
  | .movLPc disp n => word4 0xD n (d8hi disp) (d4 disp)
  | .mov m n => word4 0x6 n m 0x3
  | .movBStore m n => word4 0x2 n m 0x0
  | .movWStore m n => word4 0x2 n m 0x1
  | .movLStore m n => word4 0x2 n m 0x2
  | .movBLoad m n => word4 0x6 n m 0x0
  | .movWLoad m n => word4 0x6 n m 0x1
  | .movLLoad m n => word4 0x6 n m 0x2
  | .movBStoreDec m n => word4 0x2 n m 0x4
  | .movWStoreDec m n => word4 0x2 n m 0x5
  | .movLStoreDec m n => word4 0x2 n m 0x6
  | .movBLoadInc m n => word4 0x6 n m 0x4
  | .movWLoadInc m n => word4 0x6 n m 0x5
  | .movLLoadInc m n => word4 0x6 n m 0x6
  | .movBStoreDisp disp n => word4 0x8 0x0 n (d4 disp)
  | .movWStoreDisp disp n => word4 0x8 0x1 n (d4 disp)
  | .movLStoreDisp m disp n => word4 0x1 n m (d4 disp)
  | .movBLoadDisp disp m => word4 0x8 0x4 m (d4 disp)
  | .movWLoadDisp disp m => word4 0x8 0x5 m (d4 disp)
  | .movLLoadDisp disp m n => word4 0x5 n m (d4 disp)
  | .movBStoreIdx m n => word4 0x0 n m 0x4
  | .movWStoreIdx m n => word4 0x0 n m 0x5
  | .movLStoreIdx m n => word4 0x0 n m 0x6
  | .movBLoadIdx m n => word4 0x0 n m 0xC
  | .movWLoadIdx m n => word4 0x0 n m 0xD
  | .movLLoadIdx m n => word4 0x0 n m 0xE
  | .movBStoreGbr disp => word4 0xC 0x0 (d8hi disp) (d4 disp)
  | .movWStoreGbr disp => word4 0xC 0x1 (d8hi disp) (d4 disp)
  | .movLStoreGbr disp => word4 0xC 0x2 (d8hi disp) (d4 disp)
  | .movBLoadGbr disp => word4 0xC 0x4 (d8hi disp) (d4 disp)
  | .movWLoadGbr disp => word4 0xC 0x5 (d8hi disp) (d4 disp)
  | .movLLoadGbr disp => word4 0xC 0x6 (d8hi disp) (d4 disp)
  | .mova disp => word4 0xC 0x7 (d8hi disp) (d4 disp)
  | .movt n => word4 0x0 n 0x2 0x9
  | .swapB m n => word4 0x6 n m 0x8
  | .swapW m n => word4 0x6 n m 0x9
  | .xtrct m n => word4 0x2 n m 0xD
  | .add m n => word4 0x3 n m 0xC
  | .addImm imm n => word4 0x7 n (nib8 imm 1) (nib8 imm 0)
  | .addc m n => word4 0x3 n m 0xE
  | .addv m n => word4 0x3 n m 0xF
  | .cmpEqImm imm => word4 0x8 0x8 (nib8 imm 1) (nib8 imm 0)
  | .cmpEq m n => word4 0x3 n m 0x0
  | .cmpHs m n => word4 0x3 n m 0x2
  | .cmpGe m n => word4 0x3 n m 0x3
  | .cmpHi m n => word4 0x3 n m 0x6
  | .cmpGt m n => word4 0x3 n m 0x7
  | .cmpPl n => word4 0x4 n 0x1 0x5
  | .cmpPz n => word4 0x4 n 0x1 0x1
  | .cmpStr m n => word4 0x2 n m 0xC
  | .div1 m n => word4 0x3 n m 0x4
  | .div0s m n => word4 0x2 n m 0x7
  | .div0u => word4 0x0 0x0 0x1 0x9
  | .dmulsL m n => word4 0x3 n m 0xD
  | .dmuluL m n => word4 0x3 n m 0x5
  | .dt n => word4 0x4 n 0x1 0x0
  | .extsB m n => word4 0x6 n m 0xE
  | .extsW m n => word4 0x6 n m 0xF
  | .extuB m n => word4 0x6 n m 0xC
  | .extuW m n => word4 0x6 n m 0xD
  | .macL m n => word4 0x0 n m 0xF
  | .macW m n => word4 0x4 n m 0xF
  | .mulL m n => word4 0x0 n m 0x7
  | .mulsW m n => word4 0x2 n m 0xF
  | .muluW m n => word4 0x2 n m 0xE
  | .neg m n => word4 0x6 n m 0xB
  | .negc m n => word4 0x6 n m 0xA
  | .sub m n => word4 0x3 n m 0x8
  | .subc m n => word4 0x3 n m 0xA
  | .subv m n => word4 0x3 n m 0xB
  | .andReg m n => word4 0x2 n m 0x9
  | .andImm imm => word4 0xC 0x9 (nib8 imm 1) (nib8 imm 0)
  | .andB imm => word4 0xC 0xD (nib8 imm 1) (nib8 imm 0)
  | .notReg m n => word4 0x6 n m 0x7
  | .orReg m n => word4 0x2 n m 0xB
  | .orImm imm => word4 0xC 0xB (nib8 imm 1) (nib8 imm 0)
  | .orB imm => word4 0xC 0xF (nib8 imm 1) (nib8 imm 0)
  | .tasB n => word4 0x4 n 0x1 0xB
  | .tst m n => word4 0x2 n m 0x8
  | .tstImm imm => word4 0xC 0x8 (nib8 imm 1) (nib8 imm 0)
  | .tstB imm => word4 0xC 0xC (nib8 imm 1) (nib8 imm 0)
  | .xorReg m n => word4 0x2 n m 0xA
  | .xorImm imm => word4 0xC 0xA (nib8 imm 1) (nib8 imm 0)
  | .xorB imm => word4 0xC 0xE (nib8 imm 1) (nib8 imm 0)
  | .rotl n => word4 0x4 n 0x0 0x4
  | .rotr n => word4 0x4 n 0x0 0x5
  | .rotcl n => word4 0x4 n 0x2 0x4
  | .rotcr n => word4 0x4 n 0x2 0x5
  | .shal n => word4 0x4 n 0x2 0x0
  | .shar n => word4 0x4 n 0x2 0x1
  | .shll n => word4 0x4 n 0x0 0x0
  | .shlr n => word4 0x4 n 0x0 0x1
  | .shll2 n => word4 0x4 n 0x0 0x8
  | .shlr2 n => word4 0x4 n 0x0 0x9
  | .shll8 n => word4 0x4 n 0x1 0x8
  | .shlr8 n => word4 0x4 n 0x1 0x9
  | .shll16 n => word4 0x4 n 0x2 0x8
  | .shlr16 n => word4 0x4 n 0x2 0x9
  | .bf disp => word4 0x8 0xB (nib8 disp 1) (nib8 disp 0)
  | .bfS disp => word4 0x8 0xF (nib8 disp 1) (nib8 disp 0)
  | .bt disp => word4 0x8 0x9 (nib8 disp 1) (nib8 disp 0)
  | .btS disp => word4 0x8 0xD (nib8 disp 1) (nib8 disp 0)
  | .bra disp => word4 0xA (nib12 disp 2) (nib12 disp 1) (nib12 disp 0)
  | .braf m => word4 0x0 m 0x2 0x3
  | .bsr disp => word4 0xB (nib12 disp 2) (nib12 disp 1) (nib12 disp 0)
  | .bsrf m => word4 0x0 m 0x0 0x3
  | .jmp m => word4 0x4 m 0x2 0xB
  | .jsr m => word4 0x4 m 0x0 0xB
  | .rts => word4 0x0 0x0 0x0 0xB
  | .clrt => word4 0x0 0x0 0x0 0x8
  | .sett => word4 0x0 0x0 0x1 0x8
  | .clrmac => word4 0x0 0x0 0x2 0x8
  | .nop => word4 0x0 0x0 0x0 0x9
  | .ldcSr m => word4 0x4 m 0x0 0xE
  | .ldcGbr m => word4 0x4 m 0x1 0xE
  | .ldcVbr m => word4 0x4 m 0x2 0xE
  | .ldcLSr m => word4 0x4 m 0x0 0x7
  | .ldcLGbr m => word4 0x4 m 0x1 0x7
  | .ldcLVbr m => word4 0x4 m 0x2 0x7
  | .ldsMach m => word4 0x4 m 0x0 0xA
  | .ldsMacl m => word4 0x4 m 0x1 0xA
  | .ldsPr m => word4 0x4 m 0x2 0xA
  | .ldsLMach m => word4 0x4 m 0x0 0x6
  | .ldsLMacl m => word4 0x4 m 0x1 0x6
  | .ldsLPr m => word4 0x4 m 0x2 0x6
  | .stcSr n => word4 0x0 n 0x0 0x2
  | .stcGbr n => word4 0x0 n 0x1 0x2
  | .stcVbr n => word4 0x0 n 0x2 0x2
  | .stcLSr n => word4 0x4 n 0x0 0x3
  | .stcLGbr n => word4 0x4 n 0x1 0x3
  | .stcLVbr n => word4 0x4 n 0x2 0x3
  | .rte => word4 0x0 0x0 0x2 0xB
  | .stsMach n => word4 0x0 n 0x0 0xA
  | .stsMacl n => word4 0x0 n 0x1 0xA
  | .stsPr n => word4 0x0 n 0x2 0xA
  | .stsLMach n => word4 0x4 n 0x0 0x2
  | .stsLMacl n => word4 0x4 n 0x1 0x2
  | .stsLPr n => word4 0x4 n 0x2 0x2
  | .sleep => word4 0x0 0x0 0x1 0xB
  | .trapa imm => word4 0xC 0x3 (nib8 imm 1) (nib8 imm 0)

end Sys2Proof
end

