-- ==== Sys2Proof/Config.lean ====
section
/-! DEFINITION. What a part fixes (rules R3, R7, R118) and the free values: the values the manual leaves open. A free
value has no body, so no proof knows what it is; it is applied to the counter `draws` of the state, which every draw
advances, or to the address of a byte that nothing has written. -/

namespace Sys2Proof

/-- A free 32-bit value, one for each draw of a run (rule R106 and every "unspecified" of the spec; log entry 1). -/
opaque Config.freeWord : Nat → Word

/-- A free choice between two outcomes, one for each draw of a run (rules R136, R514, R573; log entry 1). -/
opaque Config.freeBit : Nat → Bool

/-- The byte an address holds before anything is written there: the image of the ROM, of external memory, or RAM after
power-on (rules R10, R119, R128; log entry 2). The first argument counts how often the power was cut. -/
opaque Config.initByte : Nat → Nat → Byte

/-- The byte of the user boot MAT at an offset (rule R126; log entry 2). -/
opaque Config.bootByte : Nat → Byte

/-- The ROM sizes of the group (rule R7). -/
inductive RomSize where
  | kb256 | kb384 | kb512
  deriving DecidableEq, Repr

/-- The RAM sizes of the group (rule R7). -/
inductive RamSize where
  | kb12 | kb16
  deriving DecidableEq, Repr

/-- The operating mode of the pins FWE, MD1, MD0 (rule R118). -/
inductive Mode where
  | mode0 | mode1 | mode2 | mode3 | mode4 | mode5 | mode6 | mode7
  deriving DecidableEq, Repr

/-- Single-chip modes have no external address space (rule R118). -/
def Mode.singleChip : Mode → Bool
  | .mode3 | .mode7 => true
  | .mode0 | .mode1 | .mode2 | .mode4 | .mode5 | .mode6 => false

/-- The level of the FWE pin in a mode (rules R118, R631). -/
def Mode.fwe : Mode → Bool
  | .mode4 | .mode5 | .mode6 | .mode7 => true
  | .mode0 | .mode1 | .mode2 | .mode3 => false

/-- The mode that the pins FWE, MD1, MD0 select (rule R118). -/
def Mode.ofPins (fwe md1 md0 : Bool) : Mode :=
  match fwe, md1, md0 with
  | false, false, false => .mode0
  | false, false, true => .mode1
  | false, true, false => .mode2
  | false, true, true => .mode3
  | true, false, false => .mode4
  | true, false, true => .mode5
  | true, true, false => .mode6
  | true, true, true => .mode7

/-- What a part number fixes (rule R7). -/
structure Part where
  /-- ROM_SIZE. -/
  rom : RomSize
  /-- RAM_SIZE. -/
  ram : RamSize
  /-- CAN_CHANNELS = 2: the SH7142, with the registers and vectors of RCAN-ET_1. -/
  can2 : Bool
  /-- WIDE_TEMP: lower clock limits (timing only). -/
  wideTemp : Bool
  /-- `aud_present`: a debugger is connected to the AUD (rule R640). -/
  aud : Bool
  deriving DecidableEq, Repr

/-- The number of bytes of on-chip ROM (rule R7). -/
def Part.romBytes (p : Part) : Nat :=
  match p.rom with
  | .kb256 => 0x40000
  | .kb384 => 0x60000
  | .kb512 => 0x80000

/-- The first address of on-chip RAM (rule R120). -/
def Part.ramBase (p : Part) : Nat :=
  match p.ram with
  | .kb12 => 0xFFFF9000
  | .kb16 => 0xFFFF8000

/-- The longest chain of transfer blocks the model follows (`dtc_chain_limit`, rule R569; log entry 24). -/
def Config.dtcChainLimit : Nat := 4096

end Sys2Proof
end

