-- ==== Sys2Proof/Machine/State.lean ====
section
/-! DEFINITION. The state of the machine: everything the spec gives the SH7147 inside the scope of rules R1 to R5, as
plain data, with its reset value; the faults and the refusals. INVENTORY.md names the rule of every field. -/

namespace Sys2Proof.Machine

/-- Why the machine stops (each the spec's `raise Undefined(tag)`; safe: the manual guarantees nothing afterwards). -/
inductive Fault where
  /-- An access to a reserved or unmapped address (rules R104 check 3, R122). Raised by every access. Safe. -/
  | reservedAddress
  /-- An access of a size the register does not list (rules R70, R111). Raised by register accesses. Safe. -/
  | badAccessSize
  /-- A store into the on-chip ROM (rule R110). Raised by memory writes. Safe. -/
  | romWrite
  /-- An undefined code outside H'F000..H'FFFF was decoded (rule R162). Raised by step. Safe. -/
  | undefinedOpcode
  /-- A setting the manual forbids is used (rules R502, R541, R543, R636, R643, R697). Raised by register writes,
  by accesses and by the UBC. Safe. -/
  | prohibitedSetting
  /-- A DTC transfer block or a DTCE change that the manual forbids (rules R556, R558, R561). Safe. -/
  | dtcProhibitedSetting
  /-- A DTC chain longer than `Config.dtcChainLimit` (rule R569). Safe. -/
  | dtcEndlessChain
  /-- An access to CSn space before CSnBCR.BSZ is B'01 (rule R547). Safe. -/
  | bscNotConfigured
  /-- An exception in the delay slot of RTE (rule R424 and decision D17 of 92_eei_decisions.md). Safe. -/
  | exceptionInRteSlot
  /-- The vector of an exception is read through a VBR that is no multiple of 4 (rule R447). Safe. -/
  | vbrMisaligned
  /-- The vector table of an exception lies where no read of it is legal (rule R447 and log entry 14). Safe. -/
  | vectorAddressError
  /-- An instruction is fetched from RAM while RAMCR.RAME is 0 (rule R619). Safe. -/
  | fetchFromDisabledRam
  /-- A register, the RAM or the ROM is accessed while its module's clock is stopped (rule R626). Safe. -/
  | moduleStopped
  /-- A PC-relative data transfer in a delay slot (rule R157, conflict C36). Raised by MOV.W and MOV.L
  @(disp,PC) and MOVA. Safe. -/
  | pcRelativeInDelaySlot
  /-- SLEEP outside its preconditions (rule R390). Safe. -/
  | sleepPrecondition
  /-- The download request FCCS.SCO (rule R631): the downloaded program is not in the spec. Safe. -/
  | flashDownloadUnsupported
  deriving DecidableEq, Repr

/-- Why the machine has no step. -/
inductive Refusal where
  /-- The instruction has no meaning in the model. Raised by exec. Safe. -/
  | notModelled (mnemonic : String)
  /-- The pins select the prohibited mode 1 (rule R118). Raised by step. Safe. -/
  | prohibitedMode
  /-- The pins select boot mode 4, which runs a built-in program the spec does not give (rule R118). Safe. -/
  | bootMode
  deriving DecidableEq, Repr

/-- The size of an access (rule R100). -/
inductive Size where
  | byte | word | long
  deriving DecidableEq, Repr

/-- A kind of reset (rules R410 to R413). -/
inductive ResetKind where
  /-- RES pin. -/
  | powerOn
  /-- WDT overflow with RSTS = 0. -/
  | wdtPowerOn
  /-- MRES pin. -/
  | manual
  /-- WDT overflow with RSTS = 1. -/
  | wdtManual
  deriving DecidableEq, Repr

/-- The processing state (rules R36, R37 and R620 to R626). -/
inductive Proc where
  /-- Program execution. -/
  | run
  /-- Reset state: the reset pin is held. -/
  | resetHeld (k : ResetKind)
  /-- The reset exception sequence is the next step. -/
  | resetEntry (k : ResetKind)
  /-- Sleep mode. -/
  | sleep
  /-- Software standby mode; `settling` once a wake-up edge came and the WDT counts the settling time (rule R623). -/
  | standby (settling : Bool)
  /-- Deep software standby mode. -/
  | deep
  /-- Hardware standby mode. -/
  | hardware
  deriving DecidableEq, Repr

/-- A delayed branch whose slot instruction is next (rules R38 item 2, R340). -/
structure DelaySlot where
  /-- The address of the branch: what an exception in the slot saves. -/
  branch : Word
  /-- Where execution continues after the slot. -/
  target : Word
  /-- PR before the branch, which an exception in the slot restores (rule R424). -/
  prBefore : Word
  /-- The branch is RTE (rule R383). -/
  rte : Bool
  deriving DecidableEq, Repr

/-- A halfword stored over while it may already be prefetched (rule R136): the storage cell it lies in, its old value,
and for how many further instructions a fetch may still see it. -/
structure Stale where
  cell : Nat
  old : Half
  left : Nat
  deriving DecidableEq, Repr

/-- Short-lived uncertainty after a write (rules R127, R136, R626, R634, R636, R690 to R692). -/
structure Windows where
  /-- Recently overwritten instruction halfwords. -/
  stale : List Stale
  /-- Instructions left in which a RAM access is a draw after a RAMCR write. -/
  ramcr : Nat
  /-- Instructions left in which a flash access may see either MAT after an FMATS write. -/
  fmats : Nat
  /-- Instructions left in which the overlaid area may be seen through the old RAMER. -/
  ramer : Nat
  /-- RAMER before the last such write (log entry 30). -/
  ramerOld : Half
  deriving DecidableEq, Repr

/-- The interrupt controller (rules R470 to R487). -/
structure Intc where
  /-- ICR0.NMIE. -/
  nmie : Bool
  /-- IRQCR bits 7..0. -/
  irqcr : Byte
  /-- IRQSR.IRQ3F..IRQ0F as latched by edge sensing. -/
  irqF : BitVec 4
  /-- `read_as_one[n]`: IRQnF has been read as 1 since it was set. -/
  irqRead : BitVec 4
  ipra : Half
  iprd : Half
  ipre : Half
  iprf : Half
  iprh : Half
  ipri : Half
  iprj : Half
  iprk : Half
  iprl : Half
  iprm : Half
  /-- `nmi_pending`. -/
  nmiPending : Bool
  deriving DecidableEq, Repr

/-- One channel of the user break controller (rules R501 to R503). -/
structure UbcChannel where
  /-- BARx. -/
  bar : Word
  /-- BAMRx. -/
  bamr : Word
  /-- BBRx. -/
  bbr : Half
  /-- BDRx. -/
  bdr : Word
  /-- BDMRx. -/
  bdmr : Word
  deriving DecidableEq, Repr

/-- The settings of the UBC that a register write changes and matching reads (rules R501 to R504). -/
structure UbcRegs where
  a : UbcChannel
  b : UbcChannel
  /-- BRCR without its four flags. -/
  brcr : Word
  deriving DecidableEq, Repr

/-- What a write to a UBC register replaced, which matching may still use (rules R509, R686). -/
structure UbcView where
  /-- The settings before the write. -/
  regs : UbcRegs
  /-- BETR before the write, if the write was of BETR. -/
  betr : Option (BitVec 12)
  /-- The write cleared SCMFCA or SCMFDA. -/
  cleared : Bool
  deriving DecidableEq, Repr

/-- What matching changes (rules R482, R504, R505, R514). -/
structure UbcMatch where
  /-- BRCR.SCMFCA. -/
  ca : Bool
  /-- BRCR.SCMFCB. -/
  cb : Bool
  /-- BRCR.SCMFDA. -/
  da : Bool
  /-- BRCR.SCMFDB. -/
  db : Bool
  /-- BETR. -/
  betr : BitVec 12
  /-- `ubc_pending`. -/
  pending : Bool
  /-- Boundaries until a break held back by rules R514, R515 or R521 becomes pending; 0 for none. -/
  late : Nat
  deriving DecidableEq, Repr

/-- An entry of the PC trace queue (rules R506 to R508). -/
structure TraceEntry where
  src : BitVec 28
  dst : BitVec 28
  svf : Bool
  dvf : Bool
  deriving DecidableEq, Repr

/-- The user break controller (rules R500 to R525). -/
structure Ubc where
  /-- The registers as last written. -/
  regs : UbcRegs
  /-- What earlier writes replaced, oldest first, until the CPU reads a UBC register (rules R509, R686). -/
  lag : List UbcView
  live : UbcMatch
  /-- `live` at the start of the current instruction, with what the DTC's cycles matched since: an exception of that
  instruction goes back to it (rule R522). -/
  saved : UbcMatch
  /-- The PC trace queue, oldest first, at most two entries. -/
  trace : List TraceEntry
  deriving DecidableEq, Repr

/-- The six registers of a DTC transfer block (rules R556, R557, R563). -/
structure DtcInfo where
  mra : Byte
  mrb : Byte
  sar : Word
  dar : Word
  cra : Half
  crb : Half
  deriving DecidableEq, Repr

/-- The place inside a DTC activation (rule R572): the next bus access. -/
inductive DtcPhase where
  /-- Read of the vector. -/
  | vector
  /-- The internal NOP after it. -/
  | nop
  /-- Read of longword `k` of the transfer information. -/
  | info (k : Nat)
  /-- Read of the datum at SAR, with `left` data still to move. -/
  | read (left : Nat)
  /-- Write of the datum at DAR. -/
  | write (left : Nat) (d : Word)
  /-- Write-back of SAR. -/
  | backSar
  /-- Write-back of DAR. -/
  | backDar
  /-- Write-back of CRA and CRB. -/
  | backCount
  deriving DecidableEq, Repr

/-- How far the DTC keeps the I bus at the place where an activation stands (rule R573). -/
inductive Hold where
  /-- At a release point: every master may come. -/
  | free
  /-- At point B: only an access of the CPU to external memory space may come. -/
  | externalOnly
  /-- Between release points: nobody may come. -/
  | held
  deriving DecidableEq, Repr

/-- A DTC activation in progress (rule R580). -/
structure DtcActivity where
  /-- The vector number of the source. -/
  vec : Nat
  /-- The address of the current block. -/
  base : Word
  info : DtcInfo
  phase : DtcPhase
  /-- Blocks chained so far. -/
  chained : Nat
  /-- "The transfer counter became 0", or the repeat counter was reloaded, in this block (rule R569). -/
  zero : Bool
  /-- An NMI stops it at the next release point (rule R576). -/
  stopping : Bool
  /-- How far the DTC keeps the I bus here (rule R573). -/
  hold : Hold
  /-- The register whose access makes the source withdraw its request has been accessed (rule R570). -/
  touched : Bool
  deriving DecidableEq, Repr

/-- The data transfer controller (rules R555 to R580). -/
structure Dtc where
  dtcera : Half
  dtcerb : Half
  dtcerc : Half
  dtcerd : Half
  dtcere : Half
  /-- DTCCR.RRS. -/
  rrs : Bool
  /-- DTCCR.RCHNE. -/
  rchne : Bool
  /-- DTCCR.ERR. -/
  err : Bool
  /-- ERR has been read as 1 since it was set. -/
  errRead : Bool
  dtcvbr : Word
  /-- `dtc_held_vec`. -/
  heldVec : Option Nat
  /-- `dtc_held_info`. -/
  heldInfo : DtcInfo
  /-- The block address of the held information. -/
  heldBase : Word
  /-- `dtc_last_chained`. -/
  lastChained : Bool
  /-- Vector numbers of the pending requests, in the order in which they arose (rule R562). -/
  queue : List Nat
  activity : Option DtcActivity
  /-- A DTC address error waits for the CPU (rules R444, R576). -/
  addressError : Bool
  deriving DecidableEq, Repr

/-- An external write that the write buffer may still hold: the cells it goes to and what they held before
(rules R133, R552). -/
structure ExtWrite where
  cell : Nat
  size : Size
  old : Word
  deriving DecidableEq, Repr

/-- The bus state controller (rules R545 to R552). -/
structure Bsc where
  cmncr : Word
  cs0bcr : Word
  cs1bcr : Word
  cs0wcr : Word
  cs1wcr : Word
  bscehr : Half
  /-- The external write that the write buffer may still hold (rules R133, R552). -/
  extWrite : Option ExtWrite
  /-- The bus is released to an external master (rules R36, R551). -/
  released : Bool
  deriving DecidableEq, Repr

/-- The clock pulse generator (rules R540 to R543). -/
structure Cpg where
  frqcr : Half
  /-- OSCCR.OSCSTOP. -/
  oscstop : Bool
  /-- OSCCR.OSCERS. -/
  oscers : Bool
  /-- Progress of measure B of rule R627: 1 after FRQCR was written with H'36DB, then one more for each read, to 3. -/
  sync : Nat
  deriving DecidableEq, Repr

/-- The watchdog timer (rules R590 to R598). -/
structure Wdt where
  wtcnt : Byte
  wtcsr : Byte
  /-- Pticks since the last count clock. -/
  prescaler : Nat
  /-- `wdt_written_ff`. -/
  writtenFF : Bool
  deriving DecidableEq, Repr

/-- A count clock that coincides with an access (rule R609): the counter before it, and whether it was a compare match. -/
structure CmtRace where
  old : Half
  matched : Bool
  deriving DecidableEq, Repr

/-- One channel of the compare match timer (rules R605 to R610). -/
structure CmtChannel where
  cmcsr : Half
  cmcnt : Half
  cmcor : Half
  /-- Pticks since the last count clock. -/
  prescaler : Nat
  /-- `cmf_read_as_one`. -/
  cmfRead : Bool
  /-- The count clock that coincides with the next access of any master (rule R609). -/
  race : Option CmtRace
  deriving DecidableEq, Repr

/-- The compare match timer (rule R603). -/
structure Cmt where
  /-- CMSTR. -/
  cmstr : Half
  ch0 : CmtChannel
  ch1 : CmtChannel
  deriving DecidableEq, Repr

/-- The power-down registers (rules R614 to R619). -/
structure Power where
  stbcr1 : Byte
  stbcr2 : Byte
  stbcr3 : Byte
  stbcr4 : Byte
  stbcr5 : Byte
  stbcr6 : Byte
  ramcr : Byte
  deriving DecidableEq, Repr

/-- The flash interface registers and RAMER (rules R631 to R636). FCCS has no storage of its own. -/
structure Flash where
  /-- FPCS.PPVS. -/
  ppvs : Bool
  /-- FECS.EPVB. -/
  epvb : Bool
  fkey : Byte
  fmats : Byte
  ftdar : Byte
  ramer : Half
  deriving DecidableEq, Repr

/-- The AUD registers (rule R641). -/
structure Aud where
  aucsr : Word
  auwasr : Word
  auwaer : Word
  auwbsr : Word
  auwber : Word
  auecsr : Word
  deriving DecidableEq, Repr

/-- The input pins (rules R118, R470, R472, R551, R640 and section 5 of 10_state.md): true for a high level. -/
structure Pins where
  res : Bool
  mres : Bool
  hstby : Bool
  nmi : Bool
  /-- IRQ3..IRQ0. -/
  irq : BitVec 4
  breq : Bool
  fwe : Bool
  md1 : Bool
  md0 : Bool
  audrst : Bool
  audmd : Bool
  deriving DecidableEq, Repr

/-- An interrupt request line of a module outside the scope (rules R5, R481): its vector, and for vectors 242 and 246,
which two sources share, which of the two (`second` for RM1). -/
structure Line where
  vec : Nat
  second : Bool
  deriving DecidableEq, Repr

/-- An input pin. -/
inductive Pin where
  | res | mres | hstby | nmi | irq (n : Fin 4) | breq | fwe | md1 | md0 | audrst | audmd
  deriving DecidableEq, Repr

/-- What can happen next: a CPU step, a step of another agent, or an input from outside (rules R130, R544, R640). -/
inductive Event where
  /-- The CPU steps. -/
  | cpu
  /-- The DTC performs its next bus access; `yield` says whether it gives the bus up where rule R573 leaves it open. -/
  | dtc (yield : Bool)
  /-- One period of the peripheral clock; `meets` says that a count clock in it coincides with the access that comes next
  (rule R609). -/
  | ptick (meets : Bool)
  /-- A pin takes a level. -/
  | pin (p : Pin) (high : Bool)
  /-- A module outside the scope asserts or withdraws its request. -/
  | line (l : Line) (on : Bool)
  /-- The input clock stops (rule R542). -/
  | clockStop
  /-- The debugger reads through the AUD (rule R640). -/
  | audRead (a : Word) (z : Size)
  /-- The debugger writes through the AUD. -/
  | audWrite (a : Word) (z : Size) (v : Word)
  /-- The external bus master accesses a byte of a device in CS0 or CS1 space: it writes `v`, or, with none, reads
  (rules R130, R545, R551). -/
  | external (cs1 : Bool) (a : BitVec 20) (v : Option Byte)
  deriving DecidableEq, Repr

/-- Whose turn it is when the environment decides nothing (rule R710). -/
inductive Turn where
  | cpu | dtc | ptick
  deriving DecidableEq, Repr

/-- The state of the machine. -/
structure State where
  /-- R0 to R15 (rule R20). -/
  regs : Vector Word 16
  /-- Status register (rule R24). -/
  sr : Word
  gbr : Word
  vbr : Word
  mach : Word
  macl : Word
  pr : Word
  /-- The address of the next instruction (`cur` of rule R9 when it executes). -/
  pc : Word
  /-- `in_delay_slot` and `delayed_target` (rule R38). -/
  slot : Option DelaySlot
  /-- `irq_block` (rules R38, R436). -/
  irqBlock : Bool
  proc : Proc
  /-- ROM, RAM and external memory: the bytes written so far, addresses strictly rising (rule R102; log entry 2). -/
  mem : List Host.Cell
  /-- The user boot MAT where it differs from `Config.bootByte` (rule R126). -/
  bootMat : List Host.Cell
  /-- How often the RAM has lost its power (rule R128). -/
  ramEpoch : Nat
  part : Part
  /-- The operating mode latched at power-on reset (rules R38, R118). -/
  mode : Mode
  pins : Pins
  /-- The asserted request lines of the modules outside the scope. -/
  lines : List Line
  intc : Intc
  ubc : Ubc
  dtc : Dtc
  bsc : Bsc
  cpg : Cpg
  wdt : Wdt
  cmt : Cmt
  power : Power
  flash : Flash
  aud : Aud
  windows : Windows
  /-- The MODEL's own: how many free values have been drawn (log entry 1). -/
  draws : Nat
  /-- The MODEL's own: the order in which the agents and the environment act from here (rule R132; log entry 5). -/
  agenda : List Event
  /-- The MODEL's own: what falls between the accesses of the CPU inside one of its steps, each `cpu` an access of the CPU
  or, while an external master has the bus, its turn to wait (rules R113, R132, R551; log entries 36, 40). -/
  inner : List Event
  /-- The MODEL's own: who acts next when the agenda is empty (rule R710; log entry 5). -/
  turn : Turn
  deriving DecidableEq, Repr

/-- The INTC after reset (rules R470 to R474, R477). -/
def Intc.reset : Intc :=
  { nmie := false, irqcr := 0, irqF := 0, irqRead := 0, ipra := 0, iprd := 0, ipre := 0, iprf := 0, iprh := 0,
    ipri := 0, iprj := 0, iprk := 0, iprl := 0, iprm := 0, nmiPending := false }

/-- A UBC channel after power-on reset (rule R500). -/
def UbcChannel.reset : UbcChannel := { bar := 0, bamr := 0, bbr := 0, bdr := 0, bdmr := 0 }

/-- The UBC settings after power-on reset (rule R500). -/
def UbcRegs.reset : UbcRegs := { a := .reset, b := .reset, brcr := 0 }

/-- The UBC flags after power-on reset (rules R482, R504, R505). -/
def UbcMatch.reset : UbcMatch :=
  { ca := false, cb := false, da := false, db := false, betr := 0, pending := false, late := 0 }

/-- The UBC after power-on reset. -/
def Ubc.reset : Ubc := { regs := .reset, lag := [], live := .reset, saved := .reset, trace := [] }

/-- The registers of a DTC block before any was read (log entry 3). -/
def DtcInfo.reset : DtcInfo := { mra := 0, mrb := 0, sar := 0, dar := 0, cra := 0, crb := 0 }

/-- The DTC after power-on reset (rules R555, R558, R559, R580). -/
def Dtc.reset : Dtc :=
  { dtcera := 0, dtcerb := 0, dtcerc := 0, dtcerd := 0, dtcere := 0, rrs := false, rchne := false, err := false,
    errRead := false, dtcvbr := 0, heldVec := none, heldInfo := .reset, heldBase := 0, lastChained := false,
    queue := [], activity := none, addressError := false }

/-- The BSC after power-on reset (rules R545, R549, R552). -/
def Bsc.reset : Bsc :=
  { cmncr := 0x00001010, cs0bcr := 0x36DB0600, cs1bcr := 0x36DB0600, cs0wcr := 0x00000500, cs1wcr := 0x00000500,
    bscehr := 0, extWrite := none, released := false }

/-- The CPG after power-on reset (rules R541, R542). -/
def Cpg.reset : Cpg := { frqcr := 0x36DB, oscstop := false, oscers := false, sync := 0 }

/-- The WDT after power-on reset (rules R590 to R592). -/
def Wdt.reset : Wdt := { wtcnt := 0, wtcsr := 0, prescaler := 0, writtenFF := false }

/-- A CMT channel after reset (rule R603). -/
def CmtChannel.reset : CmtChannel :=
  { cmcsr := 0, cmcnt := 0, cmcor := 0xFFFF, prescaler := 0, cmfRead := false, race := none }

/-- The CMT after reset (rule R603). -/
def Cmt.reset : Cmt := { cmstr := 0, ch0 := .reset, ch1 := .reset }

/-- The power-down registers after reset (rules R614 to R619). -/
def Power.reset : Power :=
  { stbcr1 := 0x00, stbcr2 := 0x38, stbcr3 := 0xFF, stbcr4 := 0xFF, stbcr5 := 0x03, stbcr6 := 0x00, ramcr := 0x10 }

/-- The flash interface registers after reset in a mode (rules R632 to R636). -/
def Flash.reset (m : Mode) : Flash :=
  { ppvs := false, epvb := false, fkey := 0, fmats := if m = .mode5 then 0xAA else 0, ftdar := 0, ramer := 0 }

/-- The AUD registers after reset (rule R641; the windows' values are log entry 3). -/
def Aud.reset : Aud := { aucsr := 0, auwasr := 0, auwaer := 0, auwbsr := 0, auwber := 0, auecsr := 1 }

/-- No recent write (rule R690). -/
def Windows.reset : Windows := { stale := [], ramcr := 0, fmats := 0, ramer := 0, ramerOld := 0 }

/-- The part of the reset state: a 512 KB, 16 KB SH7147 without debugger (log entry 4). -/
def resetPart : Part := { rom := .kb512, ram := .kb16, can2 := false, wideTemp := false, aud := false }

/-- The pins of the reset state: single-chip mode 3, every request and reset input inactive (log entry 4). -/
def Pins.reset : Pins :=
  { res := true, mres := true, hstby := true, nmi := true, irq := 0xF, breq := true, fwe := false, md1 := true,
    md0 := true, audrst := true, audmd := false }

/-- Right after a power-on reset: the registers initialised, the reset exception sequence (PC and SP from the vector
table, rule R414) the next step. The registers the spec gives no value hold 0 (log entry 3). -/
def State.reset : State :=
  { regs := Vector.replicate 16 0, sr := 0x000000F0, gbr := 0, vbr := 0, mach := 0, macl := 0, pr := 0, pc := 0,
    slot := none, irqBlock := false, proc := .resetEntry .powerOn, mem := [], bootMat := [], ramEpoch := 0,
    part := resetPart, mode := .mode3, pins := .reset, lines := [], intc := .reset, ubc := .reset, dtc := .reset,
    bsc := .reset, cpg := .reset, wdt := .reset, cmt := .reset, power := .reset, flash := .reset .mode3,
    aud := .reset, windows := .reset, draws := 0, agenda := [], inner := [], turn := .cpu }

end Sys2Proof.Machine
end

