-- ==== Sys2Proof/Machine/Memory.lean ====
section
/-! DEFINITION. The address map and plain storage: ROM, RAM and external memory (20_memory.md), with the overlays of
RAMER and FMATS. Peripheral registers and the checks every access passes are in Sys2Proof/Machine/Io.lean. -/

namespace Sys2Proof.Machine

/-- How an access ends: with a value, with an address error (rule R104 checks 1 and 2), or in a fault. -/
inductive Access (α : Type) where
  | ok (v : α) (s : State)
  | addressError (s : State)
  | stop (f : Fault)
  deriving Repr

/-- Continue an access that succeeded. -/
def Access.bind {α β : Type} (x : Access α) (f : α → State → Access β) : Access β :=
  match x with
  | .ok v s => f v s
  | .addressError s => .addressError s
  | .stop e => .stop e

/-- The number of bytes of an access (rule R100). -/
def Size.bytes : Size → Nat
  | .byte => 1
  | .word => 2
  | .long => 4

/-- Bit `k` of a word of any width as a truth value. -/
def bitOf {w : Nat} (v : BitVec w) (k : Nat) : Bool := v.getLsbD k

/-- `v` with bit `k` set to `b`. -/
def withBit {w : Nat} (v : BitVec w) (k : Nat) (b : Bool) : BitVec w :=
  if b then v ||| (BitVec.ofNat w 1 <<< k) else v &&& ~~~(BitVec.ofNat w 1 <<< k)

/-- Draw a free 32-bit value (log entry 1). -/
def State.drawWord (s : State) : Word × State := (Config.freeWord s.draws, { s with draws := s.draws + 1 })

/-- The low bytes of a register that an operand of a size holds. -/
def lowPart (z : Size) (v : Word) : Word := v &&& BitVec.ofNat 32 (2 ^ (8 * z.bytes) - 1)

/-- Draw a free value of a size (log entry 1). -/
def State.drawValue (s : State) (z : Size) : Word × State := let d := s.drawWord; (lowPart z d.1, d.2)

/-- Draw a free choice (log entry 1). -/
def State.drawBit (s : State) : Bool × State := (Config.freeBit s.draws, { s with draws := s.draws + 1 })

/-- The listed byte at an address. -/
def Memory.find : List Host.Cell → Nat → Option Byte
  | [], _ => none
  | (k, b) :: m, a => if a = k then some b else Memory.find m a

/-- Write a byte: the addresses stay strictly rising. -/
def Memory.put : List Host.Cell → Nat → Byte → List Host.Cell
  | [], a, b => [(a, b)]
  | (k, c) :: m, a, b =>
    if a < k then (a, b) :: (k, c) :: m else if a = k then (k, b) :: m else (k, c) :: Memory.put m a b

/-- Write bytes at rising addresses. -/
def Memory.putList (m : List Host.Cell) (a : Nat) : List Byte → List Host.Cell
  | [] => m
  | b :: bs => Memory.putList (Memory.put m a b) (a + 1) bs

/-- The canonical form: strictly rising addresses (an unlisted byte has no value of its own, so no entry is idle). -/
def Memory.wf : List Host.Cell → Bool
  | [] => true
  | [_] => true
  | (k, _) :: (l, c) :: m => decide (k < l) && Memory.wf ((l, c) :: m)

/-- A memory operand of a size from its bytes, most significant first (rule R101). -/
def beValue (z : Size) (f : Nat → Byte) : Word :=
  match z with
  | .byte => (f 0).setWidth 32
  | .word => (f 0 ++ f 1).setWidth 32
  | .long => f 0 ++ f 1 ++ f 2 ++ f 3

/-- The bytes of a memory operand, lowest address first (rule R101). -/
def beBytes (z : Size) (v : Word) : List Byte :=
  match z with
  | .byte => [v.extractLsb' 0 8]
  | .word => [v.extractLsb' 8 8, v.extractLsb' 0 8]
  | .long => [v.extractLsb' 24 8, v.extractLsb' 16 8, v.extractLsb' 8 8, v.extractLsb' 0 8]

/-- What an address belongs to (rule R124). -/
inductive Region where
  | rom | ram | cs0 | cs1
  /-- External memory space in single-chip mode: every access is an address error. -/
  | singleChipExternal
  | peripheral | reserved
  deriving DecidableEq, Repr

/-- `region(a, mode)` of rule R124. -/
def region (p : Part) (m : Mode) (a : Nat) : Region :=
  if 0xFFFFC000 ≤ a then .peripheral
  else if p.ramBase ≤ a then .ram
  else if 0x08000000 ≤ a then .reserved
  else if m = .mode0 then (if a < 0x04000000 then .cs0 else .cs1)
  else if a < p.romBytes then .rom
  else if a < 0x02000000 then .reserved
  else if m.singleChip then .singleChipExternal
  else if a < 0x04000000 then .cs0 else .cs1

/-- The region of an address in a state. -/
def State.regionOf (s : State) (a : Nat) : Region := region s.part s.mode a

/-- The byte stored at an address of ROM, RAM or external memory; a byte nothing has written is free (rules R119, R128;
log entry 2). Only the RAM forgets its initial byte when the power is cut. -/
def State.byteAt (s : State) (a : Nat) : Byte :=
  (Memory.find s.mem a).getD (Config.initByte (if s.part.ramBase ≤ a then s.ramEpoch else 0) a)

/-- The byte of the user boot MAT at an offset (rule R126). -/
def State.bootByteAt (s : State) (a : Nat) : Byte := (Memory.find s.bootMat a).getD (Config.bootByte a)

/-- The stored value of an aligned operand in ROM, RAM or external memory. -/
def State.stored (s : State) (z : Size) (a : Nat) : Word := beValue z (fun i => s.byteAt (a + i))

/-- Store an operand in the cells from an address on. -/
def State.store (s : State) (z : Size) (a : Nat) (v : Word) : State :=
  { s with mem := Memory.putList s.mem a (beBytes z v) }

/-- RAMER.RAMS (rule R636). -/
def ramsOf (r : Half) : Bool := bitOf r 3

/-- RAMER.RAM[2:0] (rule R636). -/
def ramBlockOf (r : Half) : Nat := (r.extractLsb' 0 3).toNat

/-- The erase block overlaid with RAM holds the address (rules R125, R636). -/
def overlays (r : Half) (a : Nat) : Bool := ramsOf r && decide (a / 0x1000 = ramBlockOf r)

/-- The address lies in an area of table 20.13, forbidden while RAM emulation is on (rule R636). -/
def emulationForbidden (r : Half) (a : Nat) : Bool :=
  ramsOf r && decide (0x8000 ≤ a) && decide (a / 0x1000 % 8 = ramBlockOf r)

/-- The RAM address that an overlaid address shares (rule R125). -/
def overlayAlias (a : Nat) : Nat := 0xFFFFA000 + a % 0x1000

/-- The cell of an external address: the device sees its chip select and the low 20 bits of the address (rule R545). -/
def extCell (cs1 : Bool) (a : Nat) : Nat := (if cs1 then 0x04000000 else 0x02000000) + a % 0x100000

/-- The first cell that a store to an address changes: the address itself, the RAM it shares through RAMER (rule R125),
or the cell of an external device (rule R545). -/
def State.storeAddress (s : State) (a : Word) : Nat :=
  match s.regionOf a.toNat with
  | .rom => overlayAlias a.toNat
  | .cs0 => extCell false a.toNat
  | .cs1 => extCell true a.toNat
  | .ram | .peripheral | .reserved | .singleChipExternal => a.toNat

/-- The address lies in the RAM that RAMER can overlay (rule R125). -/
def inOverlayRam (a : Nat) : Bool := decide (0xFFFFA000 ≤ a) && decide (a < 0xFFFFB000)

/-- The RAMER window of rule R692 makes the address uncertain. -/
def State.ramerUncertain (s : State) (a : Nat) : Bool :=
  decide (0 < s.windows.ramer) &&
    (decide (a / 0x1000 = ramBlockOf s.windows.ramerOld) || decide (a / 0x1000 = ramBlockOf s.flash.ramer))

/-- Read the flash behind the ROM region: the selected MAT, either MAT in the FMATS window (rules R126, R691). -/
def flashRead (s : State) (z : Size) (a : Nat) : Word × State :=
  let pick : Bool × State := if 0 < s.windows.fmats then s.drawBit else (decide (s.flash.fmats = 0xAA), s)
  let s := pick.2
  if pick.1 then
    if a < 0x3000 then (beValue z (fun i => s.bootByteAt (a + i)), s) else s.drawValue z
  else (s.stored z a, s)

/-- On-chip RAM takes part in an access: RAMCR.RAME, or either way in the RAMCR window (rules R127, R690). -/
def ramEnabled (s : State) : Bool × State :=
  if 0 < s.windows.ramcr then s.drawBit else (bitOf s.power.ramcr 4, s)

/-- Read on-chip RAM with its clock and its enable bit (rules R127, R619, R626, R690). -/
def ramCellRead (fetch : Bool) (s : State) (z : Size) (a : Nat) : Access Word :=
  if bitOf s.power.stbcr2 7 then .stop .moduleStopped
  else
    let e := ramEnabled s
    if e.1 then .ok (e.2.stored z a) e.2
    else if fetch then .stop .fetchFromDisabledRam
    else let d := e.2.drawValue z; .ok d.1 d.2

/-- Write on-chip RAM with its clock and its enable bit (rules R127, R619, R626, R690). -/
def ramCellWrite (s : State) (z : Size) (a : Nat) (v : Word) : Access Unit :=
  if bitOf s.power.stbcr2 7 then .stop .moduleStopped
  else
    let e := ramEnabled s
    .ok () (if e.1 then e.2.store z a v else e.2)

/-- Read the RAM area: in the RAMER window the overlaid RAM may show the flash of the old or of the new block, which needs
the ROM's clock as every ROM access does, and not the RAM's: the model's choice (rules R626, R692; log entries 22, 30). So is
that the window is there in mode 0 too, whose flash R630 calls not readable and for which R692 makes no exception (log entry
30). -/
def ramRead (fetch : Bool) (s : State) (z : Size) (a : Nat) : Access Word :=
  if decide (0 < s.windows.ramer) && inOverlayRam a then
    let d := s.drawBit
    if d.1 then
      let b := d.2.drawBit
      let block := ramBlockOf (if b.1 then s.windows.ramerOld else s.flash.ramer)
      if bitOf s.power.stbcr2 6 then .stop .moduleStopped
      else let r := flashRead b.2 z (0x1000 * block + a % 0x1000); .ok r.1 r.2
    else ramCellRead fetch d.2 z a
  else ramCellRead fetch s z a

/-- Write the RAM area: in the RAMER window the write may reach the flash (rules R110, R692). That it may in mode 0 too, whose
flash R630 calls not readable, is the model's choice (log entry 30). -/
def ramWrite (s : State) (z : Size) (a : Nat) (v : Word) : Access Unit :=
  if decide (0 < s.windows.ramer) && inOverlayRam a then
    let d := s.drawBit
    if d.1 then .stop .romWrite else ramCellWrite d.2 z a v
  else ramCellWrite s z a v

/-- The ROM region shows the overlaid RAM at an address: as RAMER says, by a free choice in its window
(rules R636, R692). That it does so in every mode with on-chip ROM, in user boot mode too, where R125 and R636 name user mode
and user program mode, is the model's choice (log entry 61). -/
def showsRam (s : State) (a : Nat) : Bool × State :=
  if s.ramerUncertain a then s.drawBit else (overlays s.flash.ramer a, s)

/-- Read the on-chip ROM region (rules R119, R125, R126, R626, R636, R692). That with MSTP6 = 1 an erase block overlaid with
RAM stops too is the model's choice (rules R125, R626; log entry 22), and so is that in the RAMER window the areas of table
20.13 are those of the new RAMER, at once and by no free choice (rules R636, R692; log entry 30). -/
def romRead (fetch : Bool) (s : State) (z : Size) (a : Nat) : Access Word :=
  if bitOf s.power.stbcr2 6 then .stop .moduleStopped
  else if emulationForbidden s.flash.ramer a then .stop .prohibitedSetting
  else
    let pick := showsRam s a
    if pick.1 then ramCellRead fetch pick.2 z (overlayAlias a)
    else let r := flashRead pick.2 z a; .ok r.1 r.2

/-- Write into the on-chip ROM region: only the RAM overlay takes a write, and none with MSTP6 = 1 (rules R110, R125, R626,
R636, R692; log entry 22). The areas of table 20.13 are those of the new RAMER in its window too, the model's choice (rules
R636, R692; log entry 30). -/
def romWrite (s : State) (z : Size) (a : Nat) (v : Word) : Access Unit :=
  if bitOf s.power.stbcr2 6 then .stop .moduleStopped
  else if emulationForbidden s.flash.ramer a then .stop .prohibitedSetting
  else
    let pick := showsRam s a
    if pick.1 then ramCellWrite pick.2 z (overlayAlias a) v else .stop .romWrite

/-- CSn space may be accessed: CSnBCR.BSZ = B'01, or CS0 in mode 0 (rules R112, R547). -/
def csConfigured (s : State) (cs1 : Bool) : Bool :=
  if cs1 then decide (s.bsc.cs1bcr.extractLsb' 9 2 = 1)
  else decide (s.mode = .mode0) || decide (s.bsc.cs0bcr.extractLsb' 9 2 = 1)

/-- The access uses CSnWCR.WR, and that holds one of its reserved values. A write uses it only with WW = 000: that with
another WW the write is performed all the same is the model's choice (rule R548; log entry 29). -/
def csWaitProhibited (write cs1 : Bool) (s : State) : Bool :=
  let w := if cs1 then s.bsc.cs1wcr else s.bsc.cs0wcr
  decide (12 < (w.extractLsb' 7 4).toNat) && (!write || decide (w.extractLsb' 16 3 = 0))

/-- Read external memory; a read by the CPU ends a buffered write (rules R133, R545, R547, R552). That a reserved wait code
stops the access before a width that is not set does is the model's choice (rules R547, R548; log entry 22). -/
def externalRead (cpu cs1 : Bool) (s : State) (z : Size) (a : Nat) : Access Word :=
    if csWaitProhibited false cs1 s then .stop .prohibitedSetting
  else if csConfigured s cs1 then
    .ok (s.stored z (extCell cs1 a)) (if cpu then { s with bsc := { s.bsc with extWrite := none } } else s)
  else .stop .bscNotConfigured

/-- Write external memory through the write buffer (rules R133, R545, R547, R552); the checks come as in `externalRead` (log
entry 22). -/
def externalWrite (cs1 : Bool) (s : State) (z : Size) (a : Nat) (v : Word) : Access Unit :=
    if csWaitProhibited true cs1 s then .stop .prohibitedSetting
  else if csConfigured s cs1 then
    let c := extCell cs1 a
    .ok () { s.store z c v with
      bsc := { s.bsc with extWrite := some { cell := c, size := z, old := s.stored z c } } }
  else .stop .bscNotConfigured

/-- A power-on reset abandons the external write in progress: a free number of its bytes has reached the device
(rule R552 (a)). -/
def cutExternalWrite (s : State) : State :=
  match s.bsc.extWrite with
  | none => s
  | some w =>
    let d := s.drawWord
    let n := d.1.toNat % (w.size.bytes + 1)
    { d.2 with
      mem := Memory.putList s.mem (w.cell + n) ((beBytes w.size w.old).drop n)
      bsc := { s.bsc with extWrite := none } }

end Sys2Proof.Machine
end

