-- ==== Sys2Proof/Machine/RegMap.lean ====
section
/-! DEFINITION. The register map of the on-chip peripheral space (11_peripheral_registers.md, rules R70 to R90): for every
register its address, its width, the access sizes the manual allows, its module and its initial value. A register of a
module outside the scope (rule R5) is `outside`: the map is all that the model holds of it. -/

namespace Sys2Proof.Machine

/-- The modules of the register map. -/
inductive Module where
  | sci0 | sci1 | sci2 | mtu2 | mtu2s | flash | dtc | ssu | cmt | poe | ports | ad0 | ad1 | rcan0 | rcan1 | system | bsc
  | intc | ramer | ubc | aud
  deriving DecidableEq, Repr

/-- The registers of the modules inside the scope (rule R39). -/
inductive RegId where
  | fccs | fpcs | fecs | fkey | fmats | ftdar | dtcera | dtcerb | dtcerc | dtcerd | dtcere | dtccr | dtcvbr
  | cmstr | cmcsr0 | cmcnt0 | cmcor0 | cmcsr1 | cmcnt1 | cmcor1 | frqcr | stbcr1 | stbcr2 | stbcr3 | stbcr4
  | stbcr5 | stbcr6 | wtcnt | wtcsr | osccr | ramcr | bscehr | icr0 | irqcr | irqsr | ipra | iprd | ipre
  | iprf | iprh | ipri | iprj | iprk | iprl | iprm | cmncr | cs0bcr | cs1bcr | cs0wcr | cs1wcr | ramer | bara
  | bamra | bbra | bdra | bdmra | barb | bamrb | bbrb | bdrb | bdmrb | brcr | brsr | brdr | betr | aucsr
  | auwasr | auwaer | auwbsr | auwber | auecsr
  /-- A register of a module outside the scope (rule R5). -/
  | outside
  deriving DecidableEq, Repr

/-- A row of the register map. -/
structure RegDesc where
  addr : Nat
  /-- Width in bytes. -/
  bytes : Nat
  /-- Allowed access sizes: the sum of 1, 2 and 4 for 8, 16 and 32 bits. -/
  sizes : Nat
  module : Module
  id : RegId
  /-- The initial value after a power-on reset. -/
  init : Nat
  /-- The bits whose initial value the manual gives; the others follow a pin or are undefined. -/
  known : Nat
  deriving DecidableEq, Repr

/-- A row, from its columns, whose initial value the manual gives in full. -/
def regRow (addr bytes sizes : Nat) (m : Module) (id : RegId) (init : Nat) : RegDesc :=
  { addr := addr, bytes := bytes, sizes := sizes, module := m, id := id, init := init, known := 2 ^ (8 * bytes) - 1 }

/-- A row whose initial value has open bits. -/
def regOpen (addr bytes sizes : Nat) (m : Module) (id : RegId) (init known : Nat) : RegDesc :=
  { addr := addr, bytes := bytes, sizes := sizes, module := m, id := id, init := init, known := known }

/-- The registers of INTC, CPG, WDT, power-down control, BSC, UBC, RAMER and AUD (rules R83 to R85, R88 to R90). Part 1. -/
def regsCore0 : List RegDesc :=
  [ regRow 0xFFFFE800 2 2 .system .frqcr 0x36DB,
    regRow 0xFFFFE802 1 1 .system .stbcr1 0x0,
    regRow 0xFFFFE804 1 1 .system .stbcr2 0x38,
    regRow 0xFFFFE806 1 1 .system .stbcr3 0xFF,
    regRow 0xFFFFE808 1 1 .system .stbcr4 0xFF,
    regRow 0xFFFFE80A 1 1 .system .stbcr5 0x3,
    regRow 0xFFFFE80C 1 1 .system .stbcr6 0x0,
    regRow 0xFFFFE810 1 3 .system .wtcnt 0x0,
    regRow 0xFFFFE812 1 3 .system .wtcsr 0x0,
    regRow 0xFFFFE814 1 1 .system .osccr 0x0,
    regRow 0xFFFFE880 1 1 .system .ramcr 0x10,
    regRow 0xFFFFE89A 2 3 .bsc .bscehr 0x0,
    regOpen 0xFFFFE900 2 3 .intc .icr0 0x0 0xFFF,
    regRow 0xFFFFE902 2 3 .intc .irqcr 0x0,
    regOpen 0xFFFFE904 2 3 .intc .irqsr 0xF000 0xF0FF,
    regRow 0xFFFFE906 2 3 .intc .ipra 0x0 ]

/-- The registers of INTC, CPG, WDT, power-down control, BSC, UBC, RAMER and AUD (rules R83 to R85, R88 to R90). Part 2. -/
def regsCore1 : List RegDesc :=
  [ regRow 0xFFFFE982 2 2 .intc .iprd 0x0,
    regRow 0xFFFFE984 2 2 .intc .ipre 0x0,
    regRow 0xFFFFE986 2 2 .intc .iprf 0x0,
    regRow 0xFFFFE98A 2 2 .intc .iprh 0x0,
    regRow 0xFFFFE98C 2 2 .intc .ipri 0x0,
    regRow 0xFFFFE98E 2 2 .intc .iprj 0x0,
    regRow 0xFFFFE990 2 2 .intc .iprk 0x0,
    regRow 0xFFFFE992 2 2 .intc .iprl 0x0,
    regRow 0xFFFFE994 2 2 .intc .iprm 0x0,
    regRow 0xFFFFF000 4 4 .bsc .cmncr 0x1010,
    regRow 0xFFFFF004 4 4 .bsc .cs0bcr 0x36DB0600,
    regRow 0xFFFFF008 4 4 .bsc .cs1bcr 0x36DB0600,
    regRow 0xFFFFF028 4 4 .bsc .cs0wcr 0x500,
    regRow 0xFFFFF02C 4 4 .bsc .cs1wcr 0x500,
    regRow 0xFFFFF108 2 3 .ramer .ramer 0x0,
    regRow 0xFFFFF300 4 4 .ubc .bara 0x0 ]

/-- The registers of INTC, CPG, WDT, power-down control, BSC, UBC, RAMER and AUD (rules R83 to R85, R88 to R90). Part 3. -/
def regsCore2 : List RegDesc :=
  [ regRow 0xFFFFF304 4 4 .ubc .bamra 0x0,
    regRow 0xFFFFF308 2 2 .ubc .bbra 0x0,
    regRow 0xFFFFF310 4 4 .ubc .bdra 0x0,
    regRow 0xFFFFF314 4 4 .ubc .bdmra 0x0,
    regRow 0xFFFFF320 4 4 .ubc .barb 0x0,
    regRow 0xFFFFF324 4 4 .ubc .bamrb 0x0,
    regRow 0xFFFFF328 2 2 .ubc .bbrb 0x0,
    regRow 0xFFFFF330 4 4 .ubc .bdrb 0x0,
    regRow 0xFFFFF334 4 4 .ubc .bdmrb 0x0,
    regRow 0xFFFFF3C0 4 4 .ubc .brcr 0x0,
    regOpen 0xFFFFF3D0 4 4 .ubc .brsr 0x0 0xF0000000,
    regOpen 0xFFFFF3D4 4 4 .ubc .brdr 0x0 0xF0000000,
    regRow 0xFFFFF3DC 2 2 .ubc .betr 0x0,
    regRow 0xFFFFF400 4 4 .aud .aucsr 0x0,
    regOpen 0xFFFFF404 4 4 .aud .auwasr 0x0 0x0,
    regOpen 0xFFFFF408 4 4 .aud .auwaer 0x0 0x0 ]

/-- The registers of INTC, CPG, WDT, power-down control, BSC, UBC, RAMER and AUD (rules R83 to R85, R88 to R90). Part 4. -/
def regsCore3 : List RegDesc :=
  [ regOpen 0xFFFFF40C 4 4 .aud .auwbsr 0x0 0x0,
    regOpen 0xFFFFF410 4 4 .aud .auwber 0x0 0x0,
    regRow 0xFFFFF414 4 4 .aud .auecsr 0x1 ]

/-- The registers of INTC, CPG, WDT, power-down control, BSC, UBC, RAMER and AUD (rules R83 to R85, R88 to R90). -/
def regsCore : List RegDesc := regsCore0 ++ regsCore1 ++ regsCore2 ++ regsCore3

/-- The registers of the flash interface, the DTC and the CMT (rules R74, R75, R77). Part 1. -/
def regsFlash0 : List RegDesc :=
  [ regOpen 0xFFFFCC00 1 1 .flash .fccs 0x0 0x7F,
    regRow 0xFFFFCC01 1 1 .flash .fpcs 0x0,
    regRow 0xFFFFCC02 1 1 .flash .fecs 0x0,
    regRow 0xFFFFCC04 1 1 .flash .fkey 0x0,
    regRow 0xFFFFCC05 1 1 .flash .fmats 0x0,
    regRow 0xFFFFCC06 1 1 .flash .ftdar 0x0,
    regRow 0xFFFFCC80 2 3 .dtc .dtcera 0x0,
    regRow 0xFFFFCC82 2 3 .dtc .dtcerb 0x0,
    regRow 0xFFFFCC84 2 3 .dtc .dtcerc 0x0,
    regRow 0xFFFFCC86 2 3 .dtc .dtcerd 0x0,
    regRow 0xFFFFCC88 2 3 .dtc .dtcere 0x0,
    regRow 0xFFFFCC90 1 1 .dtc .dtccr 0x0,
    regRow 0xFFFFCC94 4 7 .dtc .dtcvbr 0x0,
    regRow 0xFFFFCE00 2 7 .cmt .cmstr 0x0,
    regRow 0xFFFFCE02 2 3 .cmt .cmcsr0 0x0,
    regRow 0xFFFFCE04 2 7 .cmt .cmcnt0 0x0 ]

/-- The registers of the flash interface, the DTC and the CMT (rules R74, R75, R77). Part 2. -/
def regsFlash1 : List RegDesc :=
  [ regRow 0xFFFFCE06 2 3 .cmt .cmcor0 0xFFFF,
    regRow 0xFFFFCE08 2 7 .cmt .cmcsr1 0x0,
    regRow 0xFFFFCE0A 2 3 .cmt .cmcnt1 0x0,
    regRow 0xFFFFCE0C 2 7 .cmt .cmcor1 0xFFFF ]

/-- The registers of the flash interface, the DTC and the CMT (rules R74, R75, R77). -/
def regsFlash : List RegDesc := regsFlash0 ++ regsFlash1

/-- The registers of MTU2 (rule R72). Part 1. -/
def regsMtu20 : List RegDesc :=
  [ regRow 0xFFFFC200 1 7 .mtu2 .outside 0x0,
    regRow 0xFFFFC201 1 1 .mtu2 .outside 0x0,
    regRow 0xFFFFC202 1 3 .mtu2 .outside 0x0,
    regRow 0xFFFFC203 1 1 .mtu2 .outside 0x0,
    regRow 0xFFFFC204 1 7 .mtu2 .outside 0x0,
    regRow 0xFFFFC205 1 1 .mtu2 .outside 0x0,
    regRow 0xFFFFC206 1 3 .mtu2 .outside 0x0,
    regRow 0xFFFFC207 1 1 .mtu2 .outside 0x0,
    regRow 0xFFFFC208 1 3 .mtu2 .outside 0x0,
    regRow 0xFFFFC209 1 1 .mtu2 .outside 0x0,
    regRow 0xFFFFC20A 1 1 .mtu2 .outside 0xC0,
    regRow 0xFFFFC20D 1 1 .mtu2 .outside 0x80,
    regRow 0xFFFFC20E 1 3 .mtu2 .outside 0x0,
    regRow 0xFFFFC20F 1 1 .mtu2 .outside 0x0,
    regRow 0xFFFFC210 2 6 .mtu2 .outside 0x0,
    regRow 0xFFFFC212 2 2 .mtu2 .outside 0x0 ]

/-- The registers of MTU2 (rule R72). Part 2. -/
def regsMtu21 : List RegDesc :=
  [ regRow 0xFFFFC214 2 6 .mtu2 .outside 0xFFFF,
    regRow 0xFFFFC216 2 2 .mtu2 .outside 0xFFFF,
    regRow 0xFFFFC218 2 6 .mtu2 .outside 0xFFFF,
    regRow 0xFFFFC21A 2 2 .mtu2 .outside 0xFFFF,
    regRow 0xFFFFC21C 2 6 .mtu2 .outside 0xFFFF,
    regRow 0xFFFFC21E 2 2 .mtu2 .outside 0xFFFF,
    regRow 0xFFFFC220 2 6 .mtu2 .outside 0x0,
    regRow 0xFFFFC222 2 2 .mtu2 .outside 0xFFFF,
    regRow 0xFFFFC224 2 6 .mtu2 .outside 0xFFFF,
    regRow 0xFFFFC226 2 2 .mtu2 .outside 0xFFFF,
    regRow 0xFFFFC228 2 6 .mtu2 .outside 0xFFFF,
    regRow 0xFFFFC22A 2 2 .mtu2 .outside 0xFFFF,
    regRow 0xFFFFC22C 1 3 .mtu2 .outside 0xC0,
    regRow 0xFFFFC22D 1 1 .mtu2 .outside 0xC0,
    regRow 0xFFFFC230 1 3 .mtu2 .outside 0x0,
    regRow 0xFFFFC231 1 1 .mtu2 .outside 0x0 ]

/-- The registers of MTU2 (rule R72). Part 3. -/
def regsMtu22 : List RegDesc :=
  [ regRow 0xFFFFC232 1 1 .mtu2 .outside 0x0,
    regRow 0xFFFFC234 1 1 .mtu2 .outside 0x1,
    regRow 0xFFFFC236 1 1 .mtu2 .outside 0x0,
    regRow 0xFFFFC238 1 3 .mtu2 .outside 0x0,
    regRow 0xFFFFC239 1 1 .mtu2 .outside 0x0,
    regRow 0xFFFFC240 2 2 .mtu2 .outside 0x0,
    regRow 0xFFFFC244 2 6 .mtu2 .outside 0xFFFF,
    regRow 0xFFFFC246 2 2 .mtu2 .outside 0xFFFF,
    regRow 0xFFFFC248 2 6 .mtu2 .outside 0xFFFF,
    regRow 0xFFFFC24A 2 2 .mtu2 .outside 0xFFFF,
    regRow 0xFFFFC260 1 1 .mtu2 .outside 0x0,
    regRow 0xFFFFC280 1 3 .mtu2 .outside 0x0,
    regRow 0xFFFFC281 1 1 .mtu2 .outside 0x0,
    regRow 0xFFFFC282 1 1 .mtu2 .outside 0x0,
    regRow 0xFFFFC284 1 1 .mtu2 .outside 0x1,
    regRow 0xFFFFC300 1 7 .mtu2 .outside 0x0 ]

/-- The registers of MTU2 (rule R72). Part 4. -/
def regsMtu23 : List RegDesc :=
  [ regRow 0xFFFFC301 1 1 .mtu2 .outside 0x0,
    regRow 0xFFFFC302 1 3 .mtu2 .outside 0x0,
    regRow 0xFFFFC303 1 1 .mtu2 .outside 0x0,
    regRow 0xFFFFC304 1 7 .mtu2 .outside 0x0,
    regRow 0xFFFFC305 1 1 .mtu2 .outside 0xC0,
    regRow 0xFFFFC306 2 2 .mtu2 .outside 0x0,
    regRow 0xFFFFC308 2 6 .mtu2 .outside 0xFFFF,
    regRow 0xFFFFC30A 2 2 .mtu2 .outside 0xFFFF,
    regRow 0xFFFFC30C 2 6 .mtu2 .outside 0xFFFF,
    regRow 0xFFFFC30E 2 2 .mtu2 .outside 0xFFFF,
    regRow 0xFFFFC320 2 6 .mtu2 .outside 0xFFFF,
    regRow 0xFFFFC322 2 2 .mtu2 .outside 0xFFFF,
    regRow 0xFFFFC324 1 3 .mtu2 .outside 0x0,
    regRow 0xFFFFC325 1 1 .mtu2 .outside 0xC0,
    regRow 0xFFFFC326 1 1 .mtu2 .outside 0x0,
    regRow 0xFFFFC380 1 3 .mtu2 .outside 0x0 ]

/-- The registers of MTU2 (rule R72). Part 5. -/
def regsMtu24 : List RegDesc :=
  [ regRow 0xFFFFC381 1 1 .mtu2 .outside 0x0,
    regRow 0xFFFFC382 1 1 .mtu2 .outside 0x0,
    regRow 0xFFFFC384 1 7 .mtu2 .outside 0x0,
    regRow 0xFFFFC385 1 1 .mtu2 .outside 0xC0,
    regRow 0xFFFFC386 2 2 .mtu2 .outside 0x0,
    regRow 0xFFFFC388 2 6 .mtu2 .outside 0xFFFF,
    regRow 0xFFFFC38A 2 2 .mtu2 .outside 0xFFFF,
    regRow 0xFFFFC390 1 1 .mtu2 .outside 0x0,
    regRow 0xFFFFC400 1 3 .mtu2 .outside 0x0,
    regRow 0xFFFFC401 1 1 .mtu2 .outside 0x0,
    regRow 0xFFFFC402 1 1 .mtu2 .outside 0x0,
    regRow 0xFFFFC404 1 7 .mtu2 .outside 0x0,
    regRow 0xFFFFC405 1 1 .mtu2 .outside 0xC0,
    regRow 0xFFFFC406 2 2 .mtu2 .outside 0x0,
    regRow 0xFFFFC408 2 6 .mtu2 .outside 0xFFFF,
    regRow 0xFFFFC40A 2 2 .mtu2 .outside 0xFFFF ]

/-- The registers of MTU2 (rule R72). -/
def regsMtu2 : List RegDesc := regsMtu20 ++ regsMtu21 ++ regsMtu22 ++ regsMtu23 ++ regsMtu24

/-- The registers of MTU2S (rule R73). Part 1. -/
def regsMtu2s0 : List RegDesc :=
  [ regRow 0xFFFFC600 1 7 .mtu2s .outside 0x0,
    regRow 0xFFFFC601 1 1 .mtu2s .outside 0x0,
    regRow 0xFFFFC602 1 3 .mtu2s .outside 0x0,
    regRow 0xFFFFC603 1 1 .mtu2s .outside 0x0,
    regRow 0xFFFFC604 1 7 .mtu2s .outside 0x0,
    regRow 0xFFFFC605 1 1 .mtu2s .outside 0x0,
    regRow 0xFFFFC606 1 3 .mtu2s .outside 0x0,
    regRow 0xFFFFC607 1 1 .mtu2s .outside 0x0,
    regRow 0xFFFFC608 1 3 .mtu2s .outside 0x0,
    regRow 0xFFFFC609 1 1 .mtu2s .outside 0x0,
    regRow 0xFFFFC60A 1 1 .mtu2s .outside 0xC0,
    regRow 0xFFFFC60D 1 1 .mtu2s .outside 0x80,
    regRow 0xFFFFC60E 1 3 .mtu2s .outside 0x0,
    regRow 0xFFFFC60F 1 1 .mtu2s .outside 0x0,
    regRow 0xFFFFC610 2 6 .mtu2s .outside 0x0,
    regRow 0xFFFFC612 2 2 .mtu2s .outside 0x0 ]

/-- The registers of MTU2S (rule R73). Part 2. -/
def regsMtu2s1 : List RegDesc :=
  [ regRow 0xFFFFC614 2 6 .mtu2s .outside 0xFFFF,
    regRow 0xFFFFC616 2 2 .mtu2s .outside 0xFFFF,
    regRow 0xFFFFC618 2 6 .mtu2s .outside 0xFFFF,
    regRow 0xFFFFC61A 2 2 .mtu2s .outside 0xFFFF,
    regRow 0xFFFFC61C 2 6 .mtu2s .outside 0xFFFF,
    regRow 0xFFFFC61E 2 2 .mtu2s .outside 0xFFFF,
    regRow 0xFFFFC620 2 6 .mtu2s .outside 0x0,
    regRow 0xFFFFC622 2 2 .mtu2s .outside 0xFFFF,
    regRow 0xFFFFC624 2 6 .mtu2s .outside 0xFFFF,
    regRow 0xFFFFC626 2 2 .mtu2s .outside 0xFFFF,
    regRow 0xFFFFC628 2 6 .mtu2s .outside 0xFFFF,
    regRow 0xFFFFC62A 2 2 .mtu2s .outside 0xFFFF,
    regRow 0xFFFFC62C 1 3 .mtu2s .outside 0xC0,
    regRow 0xFFFFC62D 1 1 .mtu2s .outside 0xC0,
    regRow 0xFFFFC630 1 3 .mtu2s .outside 0x0,
    regRow 0xFFFFC631 1 1 .mtu2s .outside 0x0 ]

/-- The registers of MTU2S (rule R73). Part 3. -/
def regsMtu2s2 : List RegDesc :=
  [ regRow 0xFFFFC632 1 1 .mtu2s .outside 0x0,
    regRow 0xFFFFC634 1 1 .mtu2s .outside 0x1,
    regRow 0xFFFFC636 1 1 .mtu2s .outside 0x0,
    regRow 0xFFFFC638 1 3 .mtu2s .outside 0x0,
    regRow 0xFFFFC639 1 1 .mtu2s .outside 0x0,
    regRow 0xFFFFC640 2 2 .mtu2s .outside 0x0,
    regRow 0xFFFFC644 2 6 .mtu2s .outside 0xFFFF,
    regRow 0xFFFFC646 2 2 .mtu2s .outside 0xFFFF,
    regRow 0xFFFFC648 2 6 .mtu2s .outside 0xFFFF,
    regRow 0xFFFFC64A 2 2 .mtu2s .outside 0xFFFF,
    regRow 0xFFFFC650 1 1 .mtu2s .outside 0x0,
    regRow 0xFFFFC660 1 1 .mtu2s .outside 0x0,
    regRow 0xFFFFC680 1 3 .mtu2s .outside 0x0,
    regRow 0xFFFFC681 1 1 .mtu2s .outside 0x0,
    regRow 0xFFFFC684 1 1 .mtu2s .outside 0x1,
    regRow 0xFFFFC880 2 6 .mtu2s .outside 0x0 ]

/-- The registers of MTU2S (rule R73). Part 4. -/
def regsMtu2s3 : List RegDesc :=
  [ regRow 0xFFFFC882 2 2 .mtu2s .outside 0xFFFF,
    regRow 0xFFFFC884 1 1 .mtu2s .outside 0x0,
    regRow 0xFFFFC886 1 1 .mtu2s .outside 0x0,
    regRow 0xFFFFC890 2 6 .mtu2s .outside 0x0,
    regRow 0xFFFFC892 2 2 .mtu2s .outside 0xFFFF,
    regRow 0xFFFFC894 1 1 .mtu2s .outside 0x0,
    regRow 0xFFFFC896 1 1 .mtu2s .outside 0x0,
    regRow 0xFFFFC8A0 2 6 .mtu2s .outside 0x0,
    regRow 0xFFFFC8A2 2 2 .mtu2s .outside 0xFFFF,
    regRow 0xFFFFC8A4 1 1 .mtu2s .outside 0x0,
    regRow 0xFFFFC8A6 1 1 .mtu2s .outside 0x0,
    regRow 0xFFFFC8B0 1 1 .mtu2s .outside 0x0,
    regRow 0xFFFFC8B2 1 1 .mtu2s .outside 0x0,
    regRow 0xFFFFC8B4 1 1 .mtu2s .outside 0x0,
    regRow 0xFFFFC8B6 1 1 .mtu2s .outside 0x0 ]

/-- The registers of MTU2S (rule R73). -/
def regsMtu2s : List RegDesc := regsMtu2s0 ++ regsMtu2s1 ++ regsMtu2s2 ++ regsMtu2s3

/-- The registers of SCI and SSU (rules R71, R76). Part 1. -/
def regsSerial0 : List RegDesc :=
  [ regRow 0xFFFFC000 1 1 .sci0 .outside 0x0,
    regRow 0xFFFFC002 1 1 .sci0 .outside 0xFF,
    regRow 0xFFFFC004 1 1 .sci0 .outside 0x0,
    regOpen 0xFFFFC006 1 1 .sci0 .outside 0x0 0x0,
    regRow 0xFFFFC008 1 1 .sci0 .outside 0x84,
    regOpen 0xFFFFC00A 1 1 .sci0 .outside 0x0 0x0,
    regRow 0xFFFFC00C 1 1 .sci0 .outside 0xF2,
    regOpen 0xFFFFC00E 1 1 .sci0 .outside 0x0 0xF0,
    regRow 0xFFFFC080 1 1 .sci1 .outside 0x0,
    regRow 0xFFFFC082 1 1 .sci1 .outside 0xFF,
    regRow 0xFFFFC084 1 1 .sci1 .outside 0x0,
    regOpen 0xFFFFC086 1 1 .sci1 .outside 0x0 0x0,
    regRow 0xFFFFC088 1 1 .sci1 .outside 0x84,
    regOpen 0xFFFFC08A 1 1 .sci1 .outside 0x0 0x0,
    regRow 0xFFFFC08C 1 1 .sci1 .outside 0xF2,
    regOpen 0xFFFFC08E 1 1 .sci1 .outside 0x0 0xF0 ]

/-- The registers of SCI and SSU (rules R71, R76). Part 2. -/
def regsSerial1 : List RegDesc :=
  [ regRow 0xFFFFC100 1 1 .sci2 .outside 0x0,
    regRow 0xFFFFC102 1 1 .sci2 .outside 0xFF,
    regRow 0xFFFFC104 1 1 .sci2 .outside 0x0,
    regOpen 0xFFFFC106 1 1 .sci2 .outside 0x0 0x0,
    regRow 0xFFFFC108 1 1 .sci2 .outside 0x84,
    regOpen 0xFFFFC10A 1 1 .sci2 .outside 0x0 0x0,
    regRow 0xFFFFC10C 1 1 .sci2 .outside 0xF2,
    regOpen 0xFFFFC10E 1 1 .sci2 .outside 0x0 0xF0,
    regRow 0xFFFFCD00 1 3 .ssu .outside 0xD,
    regRow 0xFFFFCD01 1 1 .ssu .outside 0x0,
    regRow 0xFFFFCD02 1 3 .ssu .outside 0x0,
    regRow 0xFFFFCD03 1 1 .ssu .outside 0x0,
    regRow 0xFFFFCD04 1 3 .ssu .outside 0x4,
    regRow 0xFFFFCD05 1 1 .ssu .outside 0x0,
    regRow 0xFFFFCD06 1 3 .ssu .outside 0x0,
    regRow 0xFFFFCD07 1 1 .ssu .outside 0x0 ]

/-- The registers of SCI and SSU (rules R71, R76). Part 3. -/
def regsSerial2 : List RegDesc :=
  [ regRow 0xFFFFCD08 1 3 .ssu .outside 0x0,
    regRow 0xFFFFCD09 1 1 .ssu .outside 0x0,
    regRow 0xFFFFCD0A 1 3 .ssu .outside 0x0,
    regRow 0xFFFFCD0B 1 1 .ssu .outside 0x0,
    regRow 0xFFFFCD0C 1 3 .ssu .outside 0x0,
    regRow 0xFFFFCD0D 1 1 .ssu .outside 0x0 ]

/-- The registers of SCI and SSU (rules R71, R76). -/
def regsSerial : List RegDesc := regsSerial0 ++ regsSerial1 ++ regsSerial2

/-- The registers of POE, PFC and the ports (rules R78, R79). Part 1. -/
def regsPorts0 : List RegDesc :=
  [ regRow 0xFFFFD000 2 7 .poe .outside 0x0,
    regRow 0xFFFFD002 2 3 .poe .outside 0x0,
    regRow 0xFFFFD004 2 7 .poe .outside 0x0,
    regRow 0xFFFFD006 2 3 .poe .outside 0x0,
    regRow 0xFFFFD008 2 3 .poe .outside 0x0,
    regRow 0xFFFFD00A 1 1 .poe .outside 0x0,
    regRow 0xFFFFD00B 1 1 .poe .outside 0x0,
    regRow 0xFFFFD00C 2 3 .poe .outside 0x7700,
    regRow 0xFFFFD102 2 3 .ports .outside 0x0,
    regRow 0xFFFFD106 2 3 .ports .outside 0x0,
    regRow 0xFFFFD110 2 7 .ports .outside 0x0,
    regRow 0xFFFFD112 2 3 .ports .outside 0x0,
    regRow 0xFFFFD114 2 7 .ports .outside 0x0,
    regRow 0xFFFFD116 2 3 .ports .outside 0x0,
    regOpen 0xFFFFD11E 2 3 .ports .outside 0x0 0x0,
    regRow 0xFFFFD182 2 3 .ports .outside 0x0 ]

/-- The registers of POE, PFC and the ports (rules R78, R79). Part 2. -/
def regsPorts1 : List RegDesc :=
  [ regRow 0xFFFFD186 2 3 .ports .outside 0x0,
    regRow 0xFFFFD194 2 7 .ports .outside 0x0,
    regRow 0xFFFFD196 2 3 .ports .outside 0x0,
    regOpen 0xFFFFD19E 2 3 .ports .outside 0x0 0xFF00,
    regRow 0xFFFFD282 2 3 .ports .outside 0x0,
    regRow 0xFFFFD286 2 3 .ports .outside 0x0,
    regRow 0xFFFFD292 2 3 .ports .outside 0x0,
    regRow 0xFFFFD294 2 7 .ports .outside 0x0,
    regRow 0xFFFFD296 2 3 .ports .outside 0x0,
    regOpen 0xFFFFD29E 2 3 .ports .outside 0x0 0x0,
    regRow 0xFFFFD300 2 7 .ports .outside 0x0,
    regRow 0xFFFFD302 2 3 .ports .outside 0x0,
    regRow 0xFFFFD304 2 7 .ports .outside 0x0,
    regRow 0xFFFFD306 2 3 .ports .outside 0x0,
    regRow 0xFFFFD30C 2 7 .ports .outside 0x0,
    regRow 0xFFFFD30E 2 3 .ports .outside 0x0 ]

/-- The registers of POE, PFC and the ports (rules R78, R79). Part 3. -/
def regsPorts2 : List RegDesc :=
  [ regRow 0xFFFFD310 2 7 .ports .outside 0x0,
    regRow 0xFFFFD312 2 3 .ports .outside 0x0,
    regRow 0xFFFFD314 2 7 .ports .outside 0x0,
    regRow 0xFFFFD316 2 3 .ports .outside 0x0,
    regOpen 0xFFFFD31C 2 7 .ports .outside 0x0 0xFF00,
    regOpen 0xFFFFD31E 2 3 .ports .outside 0x0 0x0 ]

/-- The registers of POE, PFC and the ports (rules R78, R79). -/
def regsPorts : List RegDesc := regsPorts0 ++ regsPorts1 ++ regsPorts2

/-- The registers of the A/D converters (rule R80). Part 1. -/
def regsAnalogue0 : List RegDesc :=
  [ regRow 0xFFFFD400 1 1 .ad0 .outside 0x0,
    regRow 0xFFFFD402 1 1 .ad0 .outside 0x0,
    regRow 0xFFFFD41C 1 1 .ad0 .outside 0x0,
    regRow 0xFFFFD420 1 1 .ad0 .outside 0x0,
    regRow 0xFFFFD440 2 2 .ad0 .outside 0x0,
    regRow 0xFFFFD442 2 2 .ad0 .outside 0x0,
    regRow 0xFFFFD444 2 2 .ad0 .outside 0x0,
    regRow 0xFFFFD446 2 2 .ad0 .outside 0x0,
    regRow 0xFFFFD448 2 2 .ad0 .outside 0x0,
    regRow 0xFFFFD44A 2 2 .ad0 .outside 0x0,
    regRow 0xFFFFD44C 2 2 .ad0 .outside 0x0,
    regRow 0xFFFFD44E 2 2 .ad0 .outside 0x0,
    regRow 0xFFFFD600 1 1 .ad1 .outside 0x0,
    regRow 0xFFFFD602 1 1 .ad1 .outside 0x0,
    regRow 0xFFFFD61C 1 1 .ad1 .outside 0x0,
    regRow 0xFFFFD620 1 1 .ad1 .outside 0x0 ]

/-- The registers of the A/D converters (rule R80). Part 2. -/
def regsAnalogue1 : List RegDesc :=
  [ regRow 0xFFFFD640 2 2 .ad1 .outside 0x0,
    regRow 0xFFFFD642 2 2 .ad1 .outside 0x0,
    regRow 0xFFFFD644 2 2 .ad1 .outside 0x0,
    regRow 0xFFFFD646 2 2 .ad1 .outside 0x0,
    regRow 0xFFFFD648 2 2 .ad1 .outside 0x0,
    regRow 0xFFFFD64A 2 2 .ad1 .outside 0x0,
    regRow 0xFFFFD64C 2 2 .ad1 .outside 0x0,
    regRow 0xFFFFD64E 2 2 .ad1 .outside 0x0 ]

/-- The registers of the A/D converters (rule R80). -/
def regsAnalogue : List RegDesc := regsAnalogue0 ++ regsAnalogue1

/-- The control registers of RCAN-ET channel 0 (rule R81); channel 1 repeats them at + H'800 (rule R82). Part 1. -/
def regsRcan0 : List RegDesc :=
  [ regRow 0xFFFFD800 2 2 .rcan0 .outside 0x8001,
    regRow 0xFFFFD802 2 2 .rcan0 .outside 0xC,
    regRow 0xFFFFD804 2 2 .rcan0 .outside 0x0,
    regRow 0xFFFFD806 2 2 .rcan0 .outside 0x0,
    regRow 0xFFFFD808 2 2 .rcan0 .outside 0x1,
    regRow 0xFFFFD80A 2 2 .rcan0 .outside 0xFFFF,
    regRow 0xFFFFD80C 2 2 .rcan0 .outside 0x0,
    regRow 0xFFFFD820 4 4 .rcan0 .outside 0x0,
    regRow 0xFFFFD82A 2 2 .rcan0 .outside 0x0,
    regRow 0xFFFFD832 2 2 .rcan0 .outside 0x0,
    regRow 0xFFFFD83A 2 2 .rcan0 .outside 0x0,
    regRow 0xFFFFD842 2 2 .rcan0 .outside 0x0,
    regRow 0xFFFFD84A 2 2 .rcan0 .outside 0x0,
    regRow 0xFFFFD852 2 2 .rcan0 .outside 0xFFFF,
    regRow 0xFFFFD85A 2 2 .rcan0 .outside 0x0 ]

/-- The control registers of RCAN-ET channel 0 (rule R81); channel 1 repeats them at + H'800 (rule R82). -/
def regsRcan : List RegDesc := regsRcan0

/-- The address lies inside the register. -/
def RegDesc.covers (r : RegDesc) (a : Nat) : Bool := decide (r.addr ≤ a) && decide (a < r.addr + r.bytes)

/-- The register of a list that holds the address. -/
def findReg (l : List RegDesc) (a : Nat) : Option RegDesc := l.find? (fun r => r.covers a)

/-- The initial values of table R79 marked with an asterisk: they depend on the operating mode. -/
def portInit (m : Mode) (a : Nat) : Option Nat :=
  match m with
  | .mode0 =>
    match a with
    | 0xFFFFD110 => some 0x1444
    | 0xFFFFD112 => some 0x4404
    | 0xFFFFD114 => some 0x0344
    | 0xFFFFD116 => some 0x4444
    | 0xFFFFD196 => some 0x5500
    | 0xFFFFD294 => some 0x1111
    | 0xFFFFD296 => some 0x1111
    | 0xFFFFD312 => some 0x0404
    | 0xFFFFD314 => some 0x4444
    | _ => none
  | .mode2 | .mode5 | .mode6 => if a = 0xFFFFD110 then some 0x1000 else none
  | .mode1 | .mode3 | .mode4 | .mode7 => none

/-- The initial value of a register in a mode: the port control registers and FMATS depend on it (rules R74, R79, D12). -/
def RegDesc.initial (m : Mode) (r : RegDesc) : Nat :=
  if r.id = .fmats then (if m = .mode5 then 0xAA else 0x00) else (portInit m r.addr).getD r.init

/-- The register of a mailbox at an offset from the mailbox's start (rule R82), by its offset, width and sizes. -/
def mailboxReg (base off : Nat) (m : Module) : Option RegDesc :=
  let row (o b z : Nat) : Option RegDesc := some (regOpen (base + o) b z m .outside 0 0)
  if off < 2 then row 0 2 6
  else if off < 4 then row 2 2 2
  else if off < 6 then row 4 2 6
  else if off < 8 then row 6 2 2
  else if off < 16 then row off 1 (if off % 4 = 0 then 7 else if off % 2 = 0 then 3 else 1)
  else if off = 16 then some (regRow (base + 16) 1 3 m .outside 0x07)
  else if off = 17 then some (regRow (base + 17) 1 1 m .outside 0)
  else none

/-- The register of an RCAN-ET channel whose base address is `base` (rules R81, R82). -/
def rcanReg (base a : Nat) (m : Module) : Option RegDesc :=
  if a < base + 0x100 then
    (findReg regsRcan (a - base + 0xFFFFD800)).map
      (fun r => { r with addr := r.addr - 0xFFFFD800 + base, module := m })
  else if a < base + 0x300 then
    mailboxReg (base + 0x100 + (a - (base + 0x100)) / 0x20 * 0x20) ((a - (base + 0x100)) % 0x20) m
  else none

/-- The register that holds an address of the peripheral space, if any: every other address is reserved (rule R70). -/
def regAt (p : Part) (a : Nat) : Option RegDesc :=
  if 0xFFFFE800 ≤ a then findReg regsCore a
  else if 0xFFFFE000 ≤ a then (if p.can2 then rcanReg 0xFFFFE000 a .rcan1 else none)
  else if 0xFFFFD800 ≤ a then rcanReg 0xFFFFD800 a .rcan0
  else if 0xFFFFD400 ≤ a then findReg regsAnalogue a
  else if 0xFFFFD000 ≤ a then findReg regsPorts a
  else if 0xFFFFCD00 ≤ a ∧ a < 0xFFFFCE00 then findReg regsSerial a
  else if 0xFFFFCC00 ≤ a then findReg regsFlash a
  else if 0xFFFFC600 ≤ a then findReg regsMtu2s a
  else if 0xFFFFC200 ≤ a then findReg regsMtu2 a
  else findReg regsSerial a

/-- The clock of a module is stopped by its MSTP bit (rules R615 to R617, R626). The DTC's registers stay accessible,
and POE, the ports and the system modules have no such bit; the flash interface follows MSTP6. No rule names a stop bit of
RAMER: that it stays accessible with MSTP6 = 1 is the model's choice (rule R88; log entry 56). -/
def Module.stopped (m : Module) (p : Power) : Bool :=
  match m with
  | .flash => bitOf p.stbcr2 6
  | .sci2 => bitOf p.stbcr3 5
  | .sci1 => bitOf p.stbcr3 4
  | .sci0 => bitOf p.stbcr3 3
  | .ssu => bitOf p.stbcr3 2
  | .rcan1 => bitOf p.stbcr3 1
  | .rcan0 => bitOf p.stbcr3 0
  | .mtu2s => bitOf p.stbcr4 7
  | .mtu2 => bitOf p.stbcr4 6
  | .cmt => bitOf p.stbcr4 5
  | .ad1 => bitOf p.stbcr4 4
  | .ad0 => bitOf p.stbcr4 3
  | .aud => bitOf p.stbcr5 1
  | .ubc => bitOf p.stbcr5 0
  | .dtc | .poe | .ports | .system | .bsc | .intc | .ramer => false

/-- The map lists the access size for the register (rule R70). -/
def RegDesc.allows (r : RegDesc) (z : Size) : Bool :=
  match z with
  | .byte => r.sizes % 2 = 1
  | .word => r.sizes / 2 % 2 = 1
  | .long => r.sizes / 4 % 2 = 1

/-- The part of one register that an access touches. -/
structure RegPart where
  reg : RegDesc
  /-- The first byte inside the register. -/
  off : Nat
  /-- How many bytes. -/
  len : Nat
  deriving DecidableEq, Repr

/-- The lower half of a longword access to CMCOR_1, which the map allows though no register follows: what it reads is open
and a write to it has no effect (rules R77, R603; log entry 47). -/
def afterCmcor1 : RegDesc := regOpen 0xFFFFCE0E 2 0 .cmt .outside 0 0

/-- The parts of the registers at rising addresses that an access of `n` bytes covers; none if a byte is reserved. -/
def coverRegs (p : Part) (a : Nat) : Nat → Nat → Option (List RegPart)
  | 0, _ => some []
  | _ + 1, 0 => some []
  | fuel + 1, n + 1 =>
    match regAt p a with
    | none => if a = 0xFFFFCE0E ∧ n + 1 = 2 then some [{ reg := afterCmcor1, off := 0, len := 2 }] else none
    | some r =>
      let off := a - r.addr
      let len := min (r.bytes - off) (n + 1)
      match coverRegs p (a + len) fuel (n + 1 - len) with
      | none => none
      | some l => some ({ reg := r, off := off, len := len } :: l)

end Sys2Proof.Machine
end

