-- ==== Sys2Proof/Machine/Intc.lean ====
section
/-! DEFINITION. The interrupt controller (61_intc_ubc.md, part 1): its registers, its request lines, the routing of a
request to the DTC, and the selection of the request presented to the CPU. -/

namespace Sys2Proof.Machine

/-- The last column of table 8.2: which side of a transfer the source fixes, from its first to its last address
(rule R561). -/
inductive DtcSide where
  | any
  | source (lo hi : Nat)
  | destination (lo hi : Nat)
  deriving DecidableEq, Repr

/-- A row of table 6.3 with the columns of table 8.2: the vector, the priority field (register, and which of its four
fields counted from bit 0), the module, the DTCE bit, and the side of a transfer that is fixed. -/
structure IntSource where
  vec : Nat
  ipr : RegId
  field : Nat
  module : Module
  dtce : Option (RegId × Nat)
  side : DtcSide
  deriving DecidableEq, Repr

/-- The fixed side of a source's transfers (rule R561): the A/D data registers, SCRDR and SCTDR of the SCI channels,
SSRDR0..3 and SSTDR0..3, and CONTROL0H..CONTROL1L of mailbox 0 (addresses of rules R71, R76, R80, R82). -/
def dtcSide (vec : Nat) : DtcSide :=
  match vec with
  | 208 => .source 0xFFFFD440 0xFFFFD44F
  | 212 => .source 0xFFFFD640 0xFFFFD64F
  | 217 => .source 0xFFFFC00A 0xFFFFC00A
  | 218 => .destination 0xFFFFC006 0xFFFFC006
  | 221 => .source 0xFFFFC08A 0xFFFFC08A
  | 222 => .destination 0xFFFFC086 0xFFFFC086
  | 225 => .source 0xFFFFC10A 0xFFFFC10A
  | 226 => .destination 0xFFFFC106 0xFFFFC106
  | 233 => .source 0xFFFFCD0A 0xFFFFCD0D
  | 234 => .destination 0xFFFFCD06 0xFFFFCD09
  | 242 => .source 0xFFFFD900 0xFFFFD911
  | 246 => .source 0xFFFFE100 0xFFFFE111
  | _ => .any

/-- A row, from its columns. -/
def srcRow (vec : Nat) (ipr : RegId) (field : Nat) (m : Module) (dtce : Option (RegId × Nat)) : IntSource :=
  { vec := vec, ipr := ipr, field := field, module := m, dtce := dtce, side := dtcSide vec }

/-- The interrupt sources of table 6.3, part 1 (rules R483, R561). -/
def sources0 : List IntSource :=
  [ srcRow 64 .ipra 3 .intc (some (.dtcera, 15)),
    srcRow 65 .ipra 2 .intc (some (.dtcera, 14)),
    srcRow 66 .ipra 1 .intc (some (.dtcera, 13)),
    srcRow 67 .ipra 0 .intc (some (.dtcera, 12)),
    srcRow 88 .iprd 3 .mtu2 (some (.dtcerb, 15)),
    srcRow 89 .iprd 3 .mtu2 (some (.dtcerb, 14)),
    srcRow 90 .iprd 3 .mtu2 (some (.dtcerb, 13)),
    srcRow 91 .iprd 3 .mtu2 (some (.dtcerb, 12)),
    srcRow 92 .iprd 2 .mtu2 none,
    srcRow 93 .iprd 2 .mtu2 none,
    srcRow 94 .iprd 2 .mtu2 none,
    srcRow 96 .iprd 1 .mtu2 (some (.dtcerb, 11)),
    srcRow 97 .iprd 1 .mtu2 (some (.dtcerb, 10)),
    srcRow 100 .iprd 0 .mtu2 none,
    srcRow 101 .iprd 0 .mtu2 none,
    srcRow 104 .ipre 3 .mtu2 (some (.dtcerb, 9)) ]

/-- The interrupt sources of table 6.3, part 2 (rules R483, R561). -/
def sources1 : List IntSource :=
  [ srcRow 105 .ipre 3 .mtu2 (some (.dtcerb, 8)),
    srcRow 108 .ipre 2 .mtu2 none,
    srcRow 109 .ipre 2 .mtu2 none,
    srcRow 112 .ipre 1 .mtu2 (some (.dtcerb, 7)),
    srcRow 113 .ipre 1 .mtu2 (some (.dtcerb, 6)),
    srcRow 114 .ipre 1 .mtu2 (some (.dtcerb, 5)),
    srcRow 115 .ipre 1 .mtu2 (some (.dtcerb, 4)),
    srcRow 116 .ipre 0 .mtu2 none,
    srcRow 120 .iprf 3 .mtu2 (some (.dtcerb, 3)),
    srcRow 121 .iprf 3 .mtu2 (some (.dtcerb, 2)),
    srcRow 122 .iprf 3 .mtu2 (some (.dtcerb, 1)),
    srcRow 123 .iprf 3 .mtu2 (some (.dtcerb, 0)),
    srcRow 124 .iprf 2 .mtu2 (some (.dtcerc, 15)),
    srcRow 132 .iprf 0 .poe none,
    srcRow 133 .iprf 0 .poe none,
    srcRow 160 .iprh 1 .mtu2s (some (.dtcerc, 3)) ]

/-- The interrupt sources of table 6.3, part 3 (rules R483, R561). -/
def sources2 : List IntSource :=
  [ srcRow 161 .iprh 1 .mtu2s (some (.dtcerc, 2)),
    srcRow 162 .iprh 1 .mtu2s (some (.dtcerc, 1)),
    srcRow 163 .iprh 1 .mtu2s (some (.dtcerc, 0)),
    srcRow 164 .iprh 0 .mtu2s none,
    srcRow 168 .ipri 3 .mtu2s (some (.dtcerd, 15)),
    srcRow 169 .ipri 3 .mtu2s (some (.dtcerd, 14)),
    srcRow 170 .ipri 3 .mtu2s (some (.dtcerd, 13)),
    srcRow 171 .ipri 3 .mtu2s (some (.dtcerd, 12)),
    srcRow 172 .ipri 2 .mtu2s (some (.dtcerd, 11)),
    srcRow 176 .ipri 1 .mtu2s (some (.dtcerd, 10)),
    srcRow 177 .ipri 1 .mtu2s (some (.dtcerd, 9)),
    srcRow 178 .ipri 1 .mtu2s (some (.dtcerd, 8)),
    srcRow 180 .ipri 0 .poe none,
    srcRow 184 .iprj 3 .cmt (some (.dtcerd, 7)),
    srcRow 188 .iprj 2 .cmt (some (.dtcerd, 6)),
    srcRow 196 .iprj 0 .system none ]

/-- The interrupt sources of table 6.3, part 4 (rules R483, R561). -/
def sources3 : List IntSource :=
  [ srcRow 208 .iprk 1 .ad0 (some (.dtcerd, 2)),
    srcRow 212 .iprk 0 .ad1 (some (.dtcerd, 1)),
    srcRow 216 .iprl 3 .sci0 none,
    srcRow 217 .iprl 3 .sci0 (some (.dtcere, 15)),
    srcRow 218 .iprl 3 .sci0 (some (.dtcere, 14)),
    srcRow 219 .iprl 3 .sci0 none,
    srcRow 220 .iprl 2 .sci1 none,
    srcRow 221 .iprl 2 .sci1 (some (.dtcere, 13)),
    srcRow 222 .iprl 2 .sci1 (some (.dtcere, 12)),
    srcRow 223 .iprl 2 .sci1 none,
    srcRow 224 .iprl 1 .sci2 none,
    srcRow 225 .iprl 1 .sci2 (some (.dtcere, 11)),
    srcRow 226 .iprl 1 .sci2 (some (.dtcere, 10)),
    srcRow 227 .iprl 1 .sci2 none,
    srcRow 232 .iprm 3 .ssu none,
    srcRow 233 .iprm 3 .ssu (some (.dtcere, 7)) ]

/-- The interrupt sources of table 6.3, part 5 (rules R483, R561). -/
def sources4 : List IntSource :=
  [ srcRow 234 .iprm 3 .ssu (some (.dtcere, 6)),
    srcRow 240 .iprm 1 .rcan0 none,
    srcRow 241 .iprm 1 .rcan0 none,
    srcRow 242 .iprm 1 .rcan0 (some (.dtcere, 3)),
    srcRow 243 .iprm 1 .rcan0 none,
    srcRow 244 .iprm 0 .rcan1 none,
    srcRow 245 .iprm 0 .rcan1 none,
    srcRow 246 .iprm 0 .rcan1 (some (.dtcere, 2)),
    srcRow 247 .iprm 0 .rcan1 none ]

/-- The IRQ and peripheral interrupt sources in the default priority order of table 6.3 (rule R483). -/
def intSources : List IntSource := sources0 ++ sources1 ++ sources2 ++ sources3 ++ sources4

/-- The value of a priority register (rule R473). -/
def Intc.ipr (c : Intc) (id : RegId) : Half :=
  match id with
  | .ipra => c.ipra
  | .iprd => c.iprd
  | .ipre => c.ipre
  | .iprf => c.iprf
  | .iprh => c.iprh
  | .ipri => c.ipri
  | .iprj => c.iprj
  | .iprk => c.iprk
  | .iprl => c.iprl
  | .iprm => c.iprm
  | _ => 0

/-- The level of a source (rules R473, R476). -/
def State.levelOf (s : State) (r : IntSource) : Nat := ((s.intc.ipr r.ipr).extractLsb' (4 * r.field) 4).toNat

/-- The value of a DTC enable register (rule R558). -/
def Dtc.enableReg (d : Dtc) (id : RegId) : Half :=
  match id with
  | .dtcera => d.dtcera
  | .dtcerb => d.dtcerb
  | .dtcerc => d.dtcerc
  | .dtcerd => d.dtcerd
  | .dtcere => d.dtcere
  | _ => 0

/-- Replace a DTC enable register. -/
def Dtc.setEnableReg (d : Dtc) (id : RegId) (v : Half) : Dtc :=
  match id with
  | .dtcera => { d with dtcera := v }
  | .dtcerb => { d with dtcerb := v }
  | .dtcerc => { d with dtcerc := v }
  | .dtcerd => { d with dtcerd := v }
  | .dtcere => { d with dtcere := v }
  | _ => d

/-- `DTCE(v)` (rules R486, R558). -/
def State.dtceOf (s : State) (r : IntSource) : Bool :=
  match r.dtce with
  | none => false
  | some (id, k) => bitOf (s.dtc.enableReg id) k

/-- The sense selection of IRQn: the pair IRQn1S:IRQn0S (rule R471). -/
def Intc.sense (c : Intc) (n : Nat) : BitVec 2 := c.irqcr.extractLsb' (2 * n) 2

/-- IRQSR.IRQnF as software and the INTC see it: the inverse of the pin for level sensing, the latch for edge sensing
(rules R472, R478, R479). -/
def State.irqFlag (s : State) (n : Nat) : Bool :=
  if s.intc.sense n = 0 then !(bitOf s.pins.irq n) else bitOf s.intc.irqF n

/-- A request line of a module outside the scope is asserted (rule R481). -/
def State.lineOn (s : State) (vec : Nat) (second : Bool) : Bool :=
  s.lines.contains { vec := vec, second := second }

/-- The module of a source is on the part and has its clock (rules R481, R483, R626). -/
def State.sourceLive (s : State) (r : IntSource) : Bool :=
  !(r.module.stopped s.power) && (s.part.can2 || decide (r.module ≠ .rcan1))

/-- The request line of a source that the DTC can take (rules R478, R479, R481, R596, R606). -/
def State.requests (s : State) (r : IntSource) : Bool :=
  s.sourceLive r &&
    (if r.vec < 68 then s.irqFlag (r.vec - 64)
    else if r.vec = 184 then bitOf s.cmt.ch0.cmcsr 7 && bitOf s.cmt.ch0.cmcsr 6
    else if r.vec = 188 then bitOf s.cmt.ch1.cmcsr 7 && bitOf s.cmt.ch1.cmcsr 6
    else if r.vec = 196 then bitOf s.wdt.wtcsr 3 && !(bitOf s.wdt.wtcsr 6)
    else s.lineOn r.vec false)

/-- The request line of the second source of vectors 242 and 246, RM1, which the DTC cannot take (rules R481, R561). -/
def State.secondRequests (s : State) (r : IntSource) : Bool := s.sourceLive r && s.lineOn r.vec true

/-- The source's request that reaches the CPU: not routed to the DTC (rule R486), or from the second source of its
vector. -/
def State.cpuRequests (s : State) (r : IntSource) : Bool := (s.requests r && !(s.dtceOf r)) || s.secondRequests r

/-- The source's request that activates the DTC (rules R486, R562). -/
def State.dtcRequests (s : State) (r : IntSource) : Bool := s.requests r && s.dtceOf r

/-- The highest level among the requests, the first of table 6.3 for equal levels (rule R484). -/
def selectSource (s : State) : List IntSource → Option (Nat × Nat)
  | [] => none
  | r :: rest =>
    let best := selectSource s rest
    if s.cpuRequests r then
      match best with
      | none => some (r.vec, s.levelOf r)
      | some (v, l) => if s.levelOf r < l then some (v, l) else some (r.vec, s.levelOf r)
    else best

/-- The interrupt mask SR.I3..I0 (rule R24). -/
def State.mask (s : State) : Nat := (s.sr.extractLsb' 4 4).toNat

/-- `intc_select()` of rule R484: vector and level of the request the CPU may accept now. An IRQ or peripheral request
passes only above the mask. -/
def intcSelect (s : State) : Option (Nat × Nat) :=
  if s.ubc.live.pending && decide (s.mask < 15) then some (12, 15)
  else if s.intc.nmiPending then some (11, 16)
  else
    match selectSource s intSources with
    | none => none
    | some (v, l) => if s.mask < l then some (v, l) else none

/-- Accepting an interrupt clears the latch of NMI, of the user break and of an edge-sensed IRQ; level and peripheral
requests stay (rules R477, R479, R481, R482). -/
def acknowledge (vec : Nat) (s : State) : State :=
  if vec = 11 then { s with intc := { s.intc with nmiPending := false } }
  else if vec = 12 then { s with ubc := { s.ubc with live := { s.ubc.live with pending := false } } }
  else if 64 ≤ vec ∧ vec < 68 then
    { s with intc := { s.intc with irqF := withBit s.intc.irqF (vec - 64) false,
                                   irqRead := withBit s.intc.irqRead (vec - 64) false } }
  else s

/-- A pin change from `old` to `new` is the edge that a sense selection names (rules R471, R479). -/
def edgeOf (sense : BitVec 2) (old new : Bool) : Bool :=
  (decide (sense = 1) && old && !new) || (decide (sense = 2) && !old && new) || (decide (sense = 3) && old != new)

/-- The NMI pin makes the edge that ICR0.NMIE selects (rules R470, R477). -/
def nmiEdge (nmie old new : Bool) : Bool := if nmie then !old && new else old && !new

/-- IRQn takes a level: an edge that IRQCR selects sets the latch (rule R479). -/
def irqPin (n : Nat) (high : Bool) (s : State) : State :=
  let hit := edgeOf (s.intc.sense n) (bitOf s.pins.irq n) high
  { s with
    pins := { s.pins with irq := withBit s.pins.irq n high }
    intc := if hit then { s.intc with irqF := withBit s.intc.irqF n true } else s.intc }

/-- The value of an INTC register (rules R470 to R473), with what reading the `touched` bits changes: an IRQ flag read as
1 is noted (rule R479). That a read of any bus master counts, not of the CPU alone, is the model's choice (log entry
58). -/
def intcRead (id : RegId) (touched : Half) (s : State) : Half × State :=
  match id with
  | .icr0 => (withBit (withBit 0 15 s.pins.nmi) 8 s.intc.nmie, s)
  | .irqcr => (s.intc.irqcr.setWidth 16, s)
  | .irqsr =>
    let f : BitVec 4 :=
      withBit (withBit (withBit (withBit 0 0 (s.irqFlag 0)) 1 (s.irqFlag 1)) 2 (s.irqFlag 2)) 3 (s.irqFlag 3)
    ((0xF : BitVec 4) ++ s.pins.irq ++ (0 : BitVec 4) ++ f,
      { s with intc := { s.intc with irqRead := s.intc.irqRead ||| (f &&& s.intc.irqF &&& touched.extractLsb' 0 4) } })
  | _ => (s.intc.ipr id, s)

/-- The latch of IRQn after IRQCR changes: a channel that leaves or enters level sensing starts without a detected
edge (rule R480). -/
def senseChanged (old new : Byte) (n : Nat) (f : Bool) : Bool :=
  let o := old.extractLsb' (2 * n) 2
  let w := new.extractLsb' (2 * n) 2
  if o ≠ w ∧ (o = 0 ∨ w = 0) then false else f

/-- Four flags from a function of their number. -/
def nibbleOf (f : Nat → Bool) : BitVec 4 := withBit (withBit (withBit (withBit 0 0 (f 0)) 1 (f 1)) 2 (f 2)) 3 (f 3)

/-- The fields of a priority register that have a source; the others keep 0 (rule R473, treatment U7). -/
def iprMask (can2 : Bool) (id : RegId) : Half :=
  match id with
  | .ipra | .iprd | .ipre | .ipri => 0xFFFF
  | .iprf | .iprj => 0xFF0F
  | .iprh | .iprk => 0x00FF
  | .iprl => 0xFFF0
  | .iprm => if can2 then 0xF0FF else 0xF0F0
  | _ => 0

/-- Write an INTC register; `touched` marks the bits of the bytes written (rules R470 to R473, R479, R480). -/
def intcWrite (id : RegId) (v touched : Half) (s : State) : State :=
  let c := s.intc
  let merge (old : Half) : Half := (old &&& ~~~touched) ||| (v &&& touched)
  let ipr (old : Half) : Half := merge old &&& iprMask s.part.can2 id
  match id with
  | .icr0 => { s with intc := { c with nmie := if bitOf touched 8 then bitOf v 8 else c.nmie } }
  | .irqcr =>
    let new : Byte := (merge (c.irqcr.setWidth 16)).extractLsb' 0 8
    { s with intc := { c with irqcr := new,
                              irqF := nibbleOf (fun n => senseChanged c.irqcr new n (bitOf c.irqF n)),
                              irqRead := nibbleOf (fun n => senseChanged c.irqcr new n (bitOf c.irqRead n)) } }
  | .irqsr =>
    let keep (n : Nat) (f : Bool) : Bool := f && !(bitOf touched n && !(bitOf v n) && bitOf c.irqRead n)
    { s with intc := { c with irqF := nibbleOf (fun n => keep n (bitOf c.irqF n)),
                              irqRead := nibbleOf (fun n => keep n (bitOf c.irqRead n)) } }
  | .ipra => { s with intc := { c with ipra := ipr c.ipra } }
  | .iprd => { s with intc := { c with iprd := ipr c.iprd } }
  | .ipre => { s with intc := { c with ipre := ipr c.ipre } }
  | .iprf => { s with intc := { c with iprf := ipr c.iprf } }
  | .iprh => { s with intc := { c with iprh := ipr c.iprh } }
  | .ipri => { s with intc := { c with ipri := ipr c.ipri } }
  | .iprj => { s with intc := { c with iprj := ipr c.iprj } }
  | .iprk => { s with intc := { c with iprk := ipr c.iprk } }
  | .iprl => { s with intc := { c with iprl := ipr c.iprl } }
  | .iprm => { s with intc := { c with iprm := ipr c.iprm } }
  | _ => s

end Sys2Proof.Machine
end

