-- ==== Sys2Proof/Machine/Ubc.lean ====
section
/-! DEFINITION. The user break controller (61_intc_ubc.md, part 2): matching of bus cycles, the break request, the
execution count, the sequential condition, the PC trace queue, and its registers. -/

namespace Sys2Proof.Machine

/-- A bus cycle as the UBC sees it (rule R511). -/
structure BusCycle where
  /-- On the I bus; otherwise on the L bus. -/
  ibus : Bool
  /-- The master is the DTC; otherwise the CPU. -/
  dtc : Bool
  fetch : Bool
  write : Bool
  size : Size
  addr : Word
  data : Word
  deriving DecidableEq, Repr

/-- BRCR.PCBA, PCBB, DBEA, DBEB, SEQ, ETBE, UBIDA, UBIDB and PCTE (rule R504). -/
def UbcRegs.pcba (r : UbcRegs) : Bool := bitOf r.brcr 10

/-- BRCR.PCBB. -/
def UbcRegs.pcbb (r : UbcRegs) : Bool := bitOf r.brcr 6

/-- BRCR.DBEA. -/
def UbcRegs.dbea (r : UbcRegs) : Bool := bitOf r.brcr 7

/-- BRCR.DBEB. -/
def UbcRegs.dbeb (r : UbcRegs) : Bool := bitOf r.brcr 5

/-- BRCR.SEQ. -/
def UbcRegs.seq (r : UbcRegs) : Bool := bitOf r.brcr 3

/-- BRCR.ETBE. -/
def UbcRegs.etbe (r : UbcRegs) : Bool := bitOf r.brcr 0

/-- BRCR.UBIDA. -/
def UbcRegs.ubida (r : UbcRegs) : Bool := bitOf r.brcr 17

/-- BRCR.UBIDB. -/
def UbcRegs.ubidb (r : UbcRegs) : Bool := bitOf r.brcr 19

/-- BRCR.PCTE. -/
def UbcRegs.pcte (r : UbcRegs) : Bool := bitOf r.brcr 11

/-- The address bits compared for a data cycle of a size (table 7.3, rule R511). -/
def cmpMask : Size → Word
  | .byte => 0xFFFFFFFF
  | .word => 0xFFFFFFFE
  | .long => 0xFFFFFFFC

/-- The data bits compared for a data cycle of a size (rule R511). -/
def dataMask : Size → Word
  | .byte => 0x000000FF
  | .word => 0x0000FFFF
  | .long => 0xFFFFFFFF

/-- The SZ field that names a size (rule R502). -/
def sizeCode : Size → BitVec 2
  | .byte => 1
  | .word => 2
  | .long => 3

/-- `match(X, cycle)` of rules R510 to R512 and R515. `undecided` is the outcome where rule R511 leaves the data compare
open: a byte cycle under SZ = 01 with bits 15..8 and 7..0 of BDR, or of BDMR, set differently. A fetch on the L bus matches
whatever the size but byte (rule R512). -/
def channelMatches (ch : UbcChannel) (dbe : Bool) (c : BusCycle) (undecided : Bool) : Bool :=
  let cp := ch.bbr.extractLsb' 8 3
  let cd := ch.bbr.extractLsb' 6 2
  let id := ch.bbr.extractLsb' 4 2
  let rw := ch.bbr.extractLsb' 2 2
  let sz := ch.bbr.extractLsb' 0 2
  let active := decide (cd ≠ 0) && decide (id ≠ 0) && decide (rw ≠ 0)
  let busOk := decide (cd = 2) == c.ibus
  let masterOk := !c.ibus || (if c.dtc then bitOf cp 2 else bitOf cp 0)
  let kindOk := if c.fetch then bitOf id 0 else bitOf id 1
  let dirOk := if c.write then bitOf rw 1 else bitOf rw 0
  let sizeOk := if c.fetch && !c.ibus then decide (sz ≠ 1) else decide (sz = 0) || decide (sz = sizeCode c.size)
  let cmp := if c.fetch then 0xFFFFFFFF else cmpMask c.size
  let addrOk := decide ((c.addr ^^^ ch.bar) &&& ~~~ch.bamr &&& cmp = 0)
  let split (v : Word) : Bool := decide (v.extractLsb' 8 8 ≠ v.extractLsb' 0 8)
  let dataOk :=
    if !dbe || c.fetch then true
    else if decide (c.size = .byte) && decide (sz = 1) && (split ch.bdmr || split ch.bdr) then undecided
    else decide ((c.data ^^^ ch.bdr) &&& ~~~ch.bdmr &&& dataMask c.size = 0)
  active && busOk && masterOk && kindOk && dirOk && sizeOk && addrOk && dataOk

/-- The UBC has its clock (rules R500, R617). -/
def State.ubcOn (s : State) : Bool := !(bitOf s.power.stbcr5 0)

/-- What still applies of what earlier writes replaced: the oldest writes have taken effect, by a free choice each
(rules R509, R686). -/
def settleLag : List UbcView → State → List UbcView × State
  | [], s => ([], s)
  | r :: rest, s =>
    let d := s.drawBit
    if d.1 then settleLag rest d.2 else (r :: rest, d.2)

/-- The settings the next cycle is matched against. -/
def ubcEffective (s : State) : UbcRegs × State :=
  match s.ubc.lag with
  | [] => (s.ubc.regs, s)
  | r :: rest =>
    let x := settleLag (r :: rest) s
    ((x.1.map (fun v => v.regs)).headD s.ubc.regs, { x.2 with ubc := { x.2.ubc with lag := x.1 } })

/-- BETR as matching counts with it: the value before a write that has not taken effect (rules R505, R509). -/
def Ubc.count (u : Ubc) : BitVec 12 := (u.lag.findSome? (fun v => v.betr)).getD u.live.betr

/-- "A has matched": channel A's flag, or one whose clearing has not taken effect (rules R509, R519). -/
def Ubc.aMatched (u : Ubc) : Bool := u.live.ca || u.live.da || u.lag.any (fun v => v.cleared)

/-- Count down the BETR that an earlier write replaced, if one still applies. -/
def countLag : List UbcView → Option (List UbcView)
  | [] => none
  | v :: rest =>
    match v.betr with
    | some b => some ({ v with betr := some (b - 1) } :: rest)
    | none => (countLag rest).map (fun l => v :: l)

/-- Change what matching keeps. With `sticks` an exception of the current instruction does not take it back: the cycle is
the DTC's, or an I-bus fetch (rules R434, R515, R522). -/
def ubcNote (sticks : Bool) (f : UbcMatch → UbcMatch) (s : State) : State :=
  { s with ubc := { s.ubc with live := f s.ubc.live, saved := if sticks then f s.ubc.saved else s.ubc.saved } }

/-- Count a match of channel B (rule R520). -/
def ubcCount (sticks : Bool) (s : State) : State :=
  match countLag s.ubc.lag with
  | some l => { s with ubc := { s.ubc with lag := l } }
  | none => ubcNote sticks (fun m => { m with betr := m.betr - 1 }) s

/-- The hits of a cycle under the settings `r`: flags, the execution count of channel B, which counts every match of B, and
which channels request a break; independent, or sequential, where B must match after A and not in a cycle that matches both,
as `together` says (rules R516, R518 to R520). -/
def ubcMet (r : UbcRegs) (sticks ibus together hitA hitB : Bool) (s : State) : (Bool × Bool) × State :=
  let counts := hitB && r.etbe && decide (s.ubc.count ≠ 1)
  let metB := hitB && !counts && (!r.seq || (s.ubc.aMatched && !together))
  let flags (m : UbcMatch) : UbcMatch :=
    { m with ca := m.ca || (hitA && !ibus), da := m.da || (hitA && ibus), cb := m.cb || (metB && !ibus),
             db := m.db || (metB && ibus) }
  ((hitA && !r.seq && !r.ubida, metB && !r.ubidb), ubcNote sticks flags (if counts then ubcCount sticks s else s))

/-- Latch a break request (rules R482, R518). -/
def requestBreak (s : State) : State := ubcNote false (fun m => { m with pending := true }) s

/-- Hold a break request back for a number of acceptable boundaries. -/
def UbcMatch.holdBack (n : Nat) (m : UbcMatch) : UbcMatch := { m with late := if m.late = 0 then n else min m.late n }

/-- The request of an L-bus data cycle or of the DTC's or CPU's I-bus data cycle: at the next acceptable boundary, or,
where rules R514, R515 and R521 leave it open, at the one after it. -/
def requestDataBreak (sticks open_ : Bool) (s : State) : State :=
  if open_ then
    let d := s.drawBit
    ubcNote sticks (if d.1 then UbcMatch.holdBack 2 else fun m => { m with pending := true }) d.2
  else ubcNote sticks (fun m => { m with pending := true }) s

/-- The request of an I-bus fetch cycle: at the first or the second acceptable boundary after it (rule R515; the choice is
U19 of 93_implementation_defined.md). -/
def requestFetchBreak (s : State) : State :=
  let d := s.drawBit
  ubcNote true (UbcMatch.holdBack (if d.1 then 2 else 1)) d.2

/-- Both channels have every compare switched off: no cycle can match (rules R510, R524). -/
def UbcRegs.idle (r : UbcRegs) : Bool := decide (r.a.bbr = 0) && decide (r.b.bbr = 0)

/-- Nothing can match: the UBC has no clock, or every compare is off. -/
def State.ubcQuiet (s : State) : Bool := !s.ubcOn || (s.ubc.regs.idle && s.ubc.lag.isEmpty)

/-- A data cycle, or an I-bus fetch cycle, passes the UBC. The break of an L-bus data cycle is put off only if every
channel that requests it includes the data (rules R511, R514 to R516, R521). -/
def ubcObserve (c : BusCycle) (s : State) : State :=
  if s.ubcQuiet then s
  else
    let e := ubcEffective s
    let r := e.1
    let openA := e.2.drawBit
    let openB := openA.2.drawBit
    let sticks := c.dtc || (c.ibus && c.fetch)
    let hitA := channelMatches r.a r.dbea c openA.1
    let hitB := channelMatches r.b r.dbeb c openB.1
    let m := ubcMet r sticks c.ibus (hitA && hitB) hitA hitB openB.2
    if m.1.1 || m.1.2 then
      if c.fetch then requestFetchBreak m.2
      else requestDataBreak sticks (c.ibus || ((!m.1.1 || r.dbea) && (!m.1.2 || r.dbeb))) m.2
    else m.2

/-- The channels that the fetch of an executed instruction matches on the L bus: before execution, and after it
(rules R512, R513). -/
structure FetchHits where
  regs : UbcRegs
  /-- The cycle matches both channels, so that it completes no sequence (rule R519). -/
  both : Bool
  preA : Bool
  preB : Bool
  postA : Bool
  postB : Bool

/-- No hit. -/
def noHits (s : State) : FetchHits :=
  { regs := s.ubc.regs, both := false, preA := false, preB := false, postA := false, postB := false }

/-- The fetch of the instruction at an address on the L bus (rule R512). -/
def fetchCycle (a : Word) : BusCycle :=
  { ibus := false, dtc := false, fetch := true, write := false, size := .word, addr := a, data := 0 }

/-- The hits of the instruction at an address; nothing is fetched from an odd address (rules R512, R513, R525
example 1-3). -/
def ubcFetchHits (a : Word) (s : State) : FetchHits × State :=
  if s.ubcQuiet || bitOf a 0 then (noHits s, s)
  else
    let e := ubcEffective s
    let r := e.1
    let hitA := channelMatches r.a false (fetchCycle a) false
    let hitB := channelMatches r.b false (fetchCycle a) false
    ({ regs := r, both := hitA && hitB, preA := hitA && !r.pcba, preB := hitB && !r.pcbb,
       postA := hitA && r.pcba, postB := hitB && r.pcbb }, e.2)

/-- Record hits of an L-bus fetch; the answer is whether they request a break. -/
def ubcFetchMet (h : FetchHits) (hitA hitB : Bool) (s : State) : Bool × State :=
  if hitA || hitB then
    let m := ubcMet h.regs false false h.both hitA hitB s
    (m.1.1 || m.1.2, m.2)
  else (false, s)

/-- Record the pre-execution hits; the answer is whether they request a break (rules R512, R516, R518). -/
def ubcPre (h : FetchHits) (s : State) : Bool × State := ubcFetchMet h h.preA h.preB s

/-- Record the post-execution hits of the instruction about to run: the request is seen at the next boundary
(rule R513). -/
def ubcPost (h : FetchHits) (s : State) : State :=
  let m := ubcFetchMet h h.postA h.postB s
  if m.1 then requestBreak m.2 else m.2

/-- A break before execution that cannot be taken is held while the instruction executes (rule R518). -/
def latchPre (h : FetchHits) (s : State) : State :=
  let p := ubcPre h s
  if p.1 then requestBreak p.2 else p.2

/-- Remember the UBC's flags at the start of an instruction. -/
def ubcMark (s : State) : State := { s with ubc := { s.ubc with saved := s.ubc.live } }

/-- A boundary at which interrupts are acceptable passes: a held-back data break comes nearer (rules R514, R521). That each
boundary with `irq_block = 0` outside a slot counts as one, whatever the mask, though R432 (d) makes the mask part of
acceptance, is the model's choice (rules R432, R513, R521; log entry 27). -/
def ubcBoundary (s : State) : State :=
  let m := s.ubc.live
  if m.late = 0 then s
  else if m.late = 1 then { s with ubc := { s.ubc with live := { m with late := 0, pending := true } } }
  else { s with ubc := { s.ubc with live := { m with late := m.late - 1 } } }

/-- An exception of the current instruction takes back the break requests of that instruction; a re-execution-type one
other than the address error of a data access takes back its flags too (rule R522 (a) to (c)). A count that BETR made
goes with the flags: back where they are taken back, kept where they stay; the spec speaks of the flags alone (log
entry 55). -/
def ubcCancel (keepFlags : Bool) (s : State) : State :=
  let m := s.ubc.live
  let o := s.ubc.saved
  { s with ubc := { s.ubc with live := if keepFlags then { m with pending := o.pending, late := o.late } else o } }

/-- Record a branch in the PC trace queue: two entries, the oldest dropped (rules R508, R523). The queue stands in its
initial state while the AUD software reset is on. That STBCR5.MSTP25 = 1 or a low AUDRST pin does not stop the recording, and
that it goes on after a manual reset or an AUD reset with PCTE still 1, is the model's choice (log entry 51). -/
def pcTrace (src dst : Word) (s : State) : State :=
  if s.ubcOn && s.ubc.regs.pcte && bitOf s.power.stbcr6 7 then
    let e : TraceEntry := { src := src.extractLsb' 0 28, dst := dst.extractLsb' 0 28, svf := true, dvf := true }
    { s with ubc := { s.ubc with trace := (match s.ubc.trace with
                                          | [] => [e]
                                          | [x] => [x, e]
                                          | _ :: y :: _ => [y, e]) } }
  else s

/-- One side of a trace entry in BRSR or BRDR: its valid flag in bit 31, and its address, which is open while the flag is 0
(rules R506, R507; U11 of 93_implementation_defined.md). -/
def traceWord (valid : Bool) (addr : BitVec 28) (s : State) : Word × State :=
  if valid then (withBit (addr.setWidth 32) 31 true, s) else let d := s.drawWord; (d.1 &&& 0x0FFFFFFF, d.2)

/-- BRSR as it stands: the first entry of the queue, open with the flag 0 where there is none (rule R508). -/
def brsrWord (s : State) : Word × State :=
  match s.ubc.trace with
  | [] => traceWord false 0 s
  | e :: _ => traceWord e.svf e.src s

/-- BRDR as it stands (rule R508). -/
def brdrWord (s : State) : Word × State :=
  match s.ubc.trace with
  | [] => traceWord false 0 s
  | e :: _ => traceWord e.dvf e.dst s

/-- BRDR as a read gives it: the address is open too where BRSR was not read before (rule R508). -/
def brdrRead (s : State) : Word × State :=
  match s.ubc.trace with
  | [] => brdrWord s
  | e :: _ => if e.svf then let d := s.drawWord; (withBit (d.1 &&& 0x0FFFFFFF) 31 e.dvf, d.2) else brdrWord s

/-- BRSR has been read: the first entry's SVF is 0 (rules R506, R508). -/
def sourceRead (t : List TraceEntry) : List TraceEntry :=
  match t with
  | [] => []
  | e :: rest => { e with svf := false } :: rest

/-- Replace the trace queue. -/
def State.setTrace (s : State) (t : List TraceEntry) : State := { s with ubc := { s.ubc with trace := t } }

/-- Read a UBC register. BRSR and BRDR read the trace queue: BRSR clears SVF of the first entry, BRDR drops the entry
(rules R501 to R508). -/
def ubcRead (id : RegId) (s : State) : Word × State :=
  let u := s.ubc
  let m := u.live
  match id with
  | .bara => (u.regs.a.bar, s)
  | .bamra => (u.regs.a.bamr, s)
  | .bbra => (u.regs.a.bbr.setWidth 32, s)
  | .bdra => (u.regs.a.bdr, s)
  | .bdmra => (u.regs.a.bdmr, s)
  | .barb => (u.regs.b.bar, s)
  | .bamrb => (u.regs.b.bamr, s)
  | .bbrb => (u.regs.b.bbr.setWidth 32, s)
  | .bdrb => (u.regs.b.bdr, s)
  | .bdmrb => (u.regs.b.bdmr, s)
  | .brcr => (withBit (withBit (withBit (withBit u.regs.brcr 15 m.ca) 14 m.cb) 13 m.da) 12 m.db, s)
  | .betr => (m.betr.setWidth 32, s)
    | .brsr => let r := brsrWord s; (r.1, r.2.setTrace (sourceRead u.trace))
  | .brdr => let r := brdrRead s; (r.1, r.2.setTrace (u.trace.drop 1))
  | _ => (0, s)

/-- Put a value into BRSR past every check: the first entry's source and SVF alone change; without an entry there is one
only if the flag is now 1 (rule R106; log entry 9). -/
def forceSource (v : Word) (s : State) : State :=
  match s.ubc.trace with
  | e :: rest => s.setTrace ({ e with src := v.extractLsb' 0 28, svf := bitOf v 31 } :: rest)
  | [] => if bitOf v 31 then s.setTrace [{ src := v.extractLsb' 0 28, dst := 0, svf := true, dvf := false }] else s

/-- Put a value into BRDR past every check: the first entry's destination and DVF alone change (rule R106; log entry 9). -/
def forceDestination (v : Word) (s : State) : State :=
  match s.ubc.trace with
  | e :: rest => s.setTrace ({ e with dst := v.extractLsb' 0 28, dvf := bitOf v 31 } :: rest)
  | [] => if bitOf v 31 then s.setTrace [{ src := 0, dst := v.extractLsb' 0 28, svf := false, dvf := true }] else s

/-- The address lies among the registers of the UBC (rule R500). -/
def ubcAddress (a : Nat) : Bool := decide (0xFFFFF300 ≤ a) && decide (a < 0xFFFFF3E0)

/-- The CPU has read an operand at an address: after a UBC register every earlier write of one applies, after any other
address nothing changes (rules R509, R686). -/
def ubcReadBack (a : Word) (s : State) : State :=
  if ubcAddress a.toNat then { s with ubc := { s.ubc with lag := [] } } else s

/-- A write to a UBC register: what it replaces may apply until the CPU reads a UBC register (rules R509, R686). -/
def ubcSet (r : UbcRegs) (betr : Option (BitVec 12)) (cleared : Bool) (s : State) : State :=
  { s with ubc := { s.ubc with regs := r, lag := s.ubc.lag ++ [{ regs := s.ubc.regs, betr := betr, cleared := cleared }] } }

/-- A write of one of the settings. -/
def ubcSetRegs (r : UbcRegs) (s : State) : State := ubcSet r none false s

/-- Put a value into a UBC register; the flags of BRCR take a 0 only, and turning PCTE on empties the trace queue
(rules R501 to R508). That a setting written after BBRA or BBRB, which R509 and R686 ask to be written last, takes its full
effect too is the model's choice (log entry 61). -/
def ubcPut (id : RegId) (v : Word) (s : State) : State :=
  let r := s.ubc.regs
  let m := s.ubc.live
  let bbr : Half := v.extractLsb' 0 16 &&& 0x07FF
  match id with
  | .bara => ubcSetRegs { r with a := { r.a with bar := v } } s
  | .bamra => ubcSetRegs { r with a := { r.a with bamr := v } } s
  | .bbra => ubcSetRegs { r with a := { r.a with bbr := bbr } } s
  | .bdra => ubcSetRegs { r with a := { r.a with bdr := v } } s
  | .bdmra => ubcSetRegs { r with a := { r.a with bdmr := v } } s
  | .barb => ubcSetRegs { r with b := { r.b with bar := v } } s
  | .bamrb => ubcSetRegs { r with b := { r.b with bamr := v } } s
  | .bbrb => ubcSetRegs { r with b := { r.b with bbr := bbr } } s
  | .bdrb => ubcSetRegs { r with b := { r.b with bdr := v } } s
  | .bdmrb => ubcSetRegs { r with b := { r.b with bdmr := v } } s
  | .brcr =>
    let clears := (m.ca && !(bitOf v 15)) || (m.da && !(bitOf v 13))
    let t := ubcNote true (fun m =>
      { m with ca := m.ca && bitOf v 15, cb := m.cb && bitOf v 14, da := m.da && bitOf v 13, db := m.db && bitOf v 12 })
      (ubcSet { r with brcr := v &&& 0x003A0CE9 } none clears s)
    { t with ubc := { t.ubc with trace := if bitOf v 11 && !r.pcte then [] else t.ubc.trace } }
  | .betr => ubcNote true (fun m => { m with betr := v.extractLsb' 0 12 }) (ubcSet r (some m.betr) false s)
  | _ => s

/-- The value is a prohibited setting of a UBC register: bit 9 of a BBR, or the PC trace while the AUD traces
(rules R502, R643). That the AUD traces whenever AUCSR.EN = 1, in RAM monitor mode and with its clock stopped too, is the
model's choice (log entry 29). -/
def ubcProhibited (id : RegId) (v : Word) (s : State) : Bool :=
  match id with
  | .bbra | .bbrb => bitOf v 9
  | .brcr => bitOf v 11 && bitOf s.aud.aucsr 0
  | _ => false

/-- Write a UBC register (rules R501 to R508). -/
def ubcWrite (id : RegId) (v : Word) (s : State) : Access Unit :=
  if ubcProhibited id v s then .stop .prohibitedSetting else .ok () (ubcPut id v s)

end Sys2Proof.Machine
end

