-- ==== Sys2Proof/Machine/Timers.lean ====
section
/-! DEFINITION. The watchdog timer and the compare match timer (62_platform_devices.md, parts 4 and 5): counting and
their registers. -/

namespace Sys2Proof.Machine

/-- The bits a write reaches replace the old ones. -/
def mergeBits {w : Nat} (old v touched : BitVec w) : BitVec w := (old &&& ~~~touched) ||| (v &&& touched)

/-- WTCSR.TME (rule R592). -/
def Wdt.tme (w : Wdt) : Bool := bitOf w.wtcsr 7

/-- WTCSR.WT/IT: watchdog timer mode (rule R592). -/
def Wdt.watchdog (w : Wdt) : Bool := bitOf w.wtcsr 6

/-- Pticks per count clock of the WDT (rule R592). -/
def wdtPeriod (w : Wdt) : Nat :=
  match (w.wtcsr.extractLsb' 0 3).toNat with
  | 0 => 1
  | 1 => 4
  | 2 => 16
  | 3 => 32
  | 4 => 64
  | 5 => 256
  | 6 => 1024
  | _ => 4096

/-- One count clock: whether it overflows; an H'FF written in interval timer mode does not overflow at once
(rule R594). -/
def wdtCount (w : Wdt) : Wdt × Bool :=
  ({ w with wtcnt := w.wtcnt + 1, writtenFF := false },
    decide (w.wtcnt = 0xFF) && !(w.writtenFF && !w.watchdog))

/-- One Ptick of the prescaler, and the count clock it may give (rule R594). -/
def wdtTick (w : Wdt) : Wdt × Bool :=
  if w.prescaler + 1 < wdtPeriod w then ({ w with prescaler := w.prescaler + 1 }, false)
  else wdtCount { w with prescaler := 0 }

/-- The flag an overflow sets (rules R595, R596). -/
def wdtOverflow (w : Wdt) : Wdt := { w with wtcsr := withBit w.wtcsr (if w.watchdog then 4 else 3) true }

/-- A keyed write of WTCNT (rules R593, R594). -/
def wdtWriteCount (v : Half) (w : Wdt) : Wdt :=
  if v.extractLsb' 8 8 = 0x5A then
    { w with wtcnt := v.extractLsb' 0 8, writtenFF := decide (v.extractLsb' 0 8 = 0xFF) }
  else w

/-- A keyed write of WTCSR: starting the timer, or changing its mode or clock while it runs, restarts the prescaler
(rules R592 to R594). -/
def wdtWriteStatus (v : Half) (w : Wdt) : Wdt :=
  if v.extractLsb' 8 8 = 0xA5 then
    let new : Byte := v.extractLsb' 0 8
    let restart := (!w.tme && bitOf new 7) || decide ((w.wtcsr ^^^ new) &&& 0x47 ≠ 0)
    { w with wtcsr := new, prescaler := if restart then 0 else w.prescaler }
  else w

/-- Pticks per count clock of a CMT channel (rule R605). -/
def cmtPeriod (c : CmtChannel) : Nat :=
  match (c.cmcsr.extractLsb' 0 2).toNat with
  | 0 => 8
  | 1 => 32
  | 2 => 128
  | _ => 512

/-- A compare match: the flag set anew and the counter cleared (rules R606, R608). -/
def cmtMatch (c : CmtChannel) : CmtChannel :=
  { c with cmcnt := 0, cmcsr := withBit c.cmcsr 7 true, cmfRead := false }

/-- One count clock of a CMT channel (`cmt_tick`, rule R608). -/
def cmtCount (c : CmtChannel) : CmtChannel :=
  if c.cmcnt = c.cmcor then cmtMatch c else { c with cmcnt := c.cmcnt + 1 }

/-- One Ptick of a running CMT channel; with `meets` its count clock coincides with the access that comes next
(rules R608, R609). -/
def cmtTick (meets running : Bool) (c : CmtChannel) : CmtChannel :=
  if running then
    if c.prescaler + 1 < cmtPeriod c then { c with prescaler := c.prescaler + 1 }
    else
      let t := cmtCount { c with prescaler := 0 }
      if meets then { t with race := some { old := c.cmcnt, matched := decide (c.cmcnt = c.cmcor) } } else t
  else c

/-- No count clock coincides with the next access any more (rule R609). -/
def clearRaces (s : State) : State :=
  if s.cmt.ch0.race.isNone && s.cmt.ch1.race.isNone then s
  else { s with cmt := { s.cmt with ch0 := { s.cmt.ch0 with race := none }, ch1 := { s.cmt.ch1 with race := none } } }

/-- One Ptick of the CMT, which counts only with its clock (rules R608, R609, R626). -/
def cmtPtick (meets : Bool) (s : State) : State :=
  let s := clearRaces s
  if bitOf s.power.stbcr4 5 then s
  else { s with cmt := { s.cmt with ch0 := cmtTick meets (bitOf s.cmt.cmstr 0) s.cmt.ch0,
                                    ch1 := cmtTick meets (bitOf s.cmt.cmstr 1) s.cmt.ch1 } }

/-- Starting a channel clears its prescaler (rule R608). -/
def cmtStart (was now : Bool) (c : CmtChannel) : CmtChannel :=
  if !was && now then { c with prescaler := 0 } else c

/-- Writing CMSTR (rule R604). -/
def cmtWriteStart (v touched : Half) (c : Cmt) : Cmt :=
  let new := mergeBits c.cmstr v touched &&& 0x0003
  { cmstr := new, ch0 := cmtStart (bitOf c.cmstr 0) (bitOf new 0) c.ch0,
    ch1 := cmtStart (bitOf c.cmstr 1) (bitOf new 1) c.ch1 }

/-- Writing CMCSR: CMF takes only a 0 after it was read as 1 (rules R605, R606). That another CKS in a running channel keeps
the count of the prescaler is the model's choice (rule R608; log entry 34). -/
def cmtWriteStatus (v touched : Half) (c : CmtChannel) : CmtChannel :=
  let clear := bitOf touched 7 && !(bitOf v 7) && c.cmfRead
  let kept := bitOf c.cmcsr 7 && !clear
  { c with cmcsr := withBit (mergeBits c.cmcsr v touched &&& 0x0043) 7 kept, cmfRead := c.cmfRead && !clear }

/-- A stopped channel whose counter is made equal to its constant matches at that write (rule R609 (d)). -/
def cmtStopped (running : Bool) (c : CmtChannel) : CmtChannel :=
  if !running && decide (c.cmcnt = c.cmcor) then cmtMatch c else c

/-- Writing CMCNT (rules R607, R609). A compare match at the same moment wins, and the write is lost; an increment at the
same moment is lost, in the byte that is not written too. -/
def cmtWriteCount (running : Bool) (v touched : Half) (c : CmtChannel) : CmtChannel :=
  match c.race with
  | some r => if r.matched then c else { c with cmcnt := mergeBits r.old v touched }
  | none => cmtStopped running { c with cmcnt := mergeBits c.cmcnt v touched }

/-- Writing CMCOR (rules R607, R609). -/
def cmtWriteConstant (running : Bool) (v touched : Half) (c : CmtChannel) : CmtChannel :=
  cmtStopped running { c with cmcor := mergeBits c.cmcor v touched }

/-- Reading CMCSR notes a flag read as 1 (rule R606). -/
def cmtReadStatus (touched : Half) (c : CmtChannel) : CmtChannel :=
  if bitOf touched 7 && bitOf c.cmcsr 7 then { c with cmfRead := true } else c

/-- CMCNT as an access sees it: one that a count clock coincides with sees the counter before that clock (rule R609; log
entry 34). -/
def CmtChannel.seen (c : CmtChannel) : Half := (c.race.map (fun r => r.old)).getD c.cmcnt

/-- Reading a CMT register (rules R603 to R607). -/
def cmtRead (id : RegId) (touched : Half) (s : State) : Half × State :=
  let c := s.cmt
  match id with
  | .cmstr => (c.cmstr, s)
  | .cmcsr0 => (c.ch0.cmcsr, { s with cmt := { c with ch0 := cmtReadStatus touched c.ch0 } })
  | .cmcnt0 => (c.ch0.seen, s)
  | .cmcor0 => (c.ch0.cmcor, s)
  | .cmcsr1 => (c.ch1.cmcsr, { s with cmt := { c with ch1 := cmtReadStatus touched c.ch1 } })
  | .cmcnt1 => (c.ch1.seen, s)
  | .cmcor1 => (c.ch1.cmcor, s)
  | _ => (0, s)

/-- Writing a CMT register (rules R603 to R607). -/
def cmtWrite (id : RegId) (v touched : Half) (s : State) : State :=
  let c := s.cmt
  let run0 := bitOf c.cmstr 0
  let run1 := bitOf c.cmstr 1
  match id with
  | .cmstr => { s with cmt := cmtWriteStart v touched c }
  | .cmcsr0 => { s with cmt := { c with ch0 := cmtWriteStatus v touched c.ch0 } }
  | .cmcnt0 => { s with cmt := { c with ch0 := cmtWriteCount run0 v touched c.ch0 } }
  | .cmcor0 => { s with cmt := { c with ch0 := cmtWriteConstant run0 v touched c.ch0 } }
  | .cmcsr1 => { s with cmt := { c with ch1 := cmtWriteStatus v touched c.ch1 } }
  | .cmcnt1 => { s with cmt := { c with ch1 := cmtWriteCount run1 v touched c.ch1 } }
  | .cmcor1 => { s with cmt := { c with ch1 := cmtWriteConstant run1 v touched c.ch1 } }
  | _ => s

end Sys2Proof.Machine
end

