-- ==== Sys2Proof/Machine/Platform.lean ====
section
/-! DEFINITION. The registers of the clock generator, the bus state controller, the DTC's CPU side, the power-down
control, the flash interface and the AUD (62_platform_devices.md and 63_flash_aud.md). -/

namespace Sys2Proof.Machine

/-- The divider tuples of table 4.4 as FRQCR values (rule R541): fields Iφ, Bφ, Pφ, MIφ, MPφ of three bits each, with
0 for ×1, 1 for ×1/2, 2 for ×1/3, 3 for ×1/4, 4 for ×1/8. -/
def frqcrQuarter : List Nat :=
  [0o33444, 0o33434, 0o33433, 0o33333, 0o22222]

/-- The tuples of table 4.4 with Iφ = ×1/2. -/
def frqcrHalf : List Nat :=
  [0o13444, 0o13434, 0o13433, 0o13414, 0o13413, 0o13333, 0o13313, 0o11444, 0o11434, 0o11433, 0o11414, 0o11413,
    0o11411, 0o11333, 0o11313, 0o11311, 0o11111]

/-- The tuples of table 4.4 with Iφ = ×1. -/
def frqcrFull : List Nat :=
  [0o03444, 0o03434, 0o03433, 0o03414, 0o03413, 0o03404, 0o03403, 0o03333, 0o03313, 0o03303, 0o02222, 0o02202,
    0o01444, 0o01434, 0o01433, 0o01414, 0o01413, 0o01411, 0o01404, 0o01403, 0o01401, 0o01333, 0o01313, 0o01311,
    0o01303, 0o01301, 0o01111, 0o01101]

/-- The value is a permitted combination of table 4.4 (rule R541). -/
def frqcrAllowed (v : Half) : Bool := (frqcrQuarter ++ frqcrHalf ++ frqcrFull).contains v.toNat

/-- Every module with a stop bit is stopped (rule R543 step 2). -/
def modulesStopped (p : Power) : Bool :=
  bitOf p.stbcr2 4 && decide (p.stbcr3 ||| 0xC0 = 0xFF) && decide (p.stbcr4 ||| 0x07 = 0xFF) &&
    decide (p.stbcr5 = 0x03)

/-- The CPU executes from on-chip RAM (rules R631, R634). Code in an erase block overlaid with RAM does not count, since its
pc lies in the ROM region, and a CPU that sleeps or waits with its pc in RAM does: the model's choice (log entry 59). -/
def State.runsInRam (s : State) : Bool := decide (s.regionOf s.pc.toNat = .ram)

/-- The CPU executes from on-chip ROM or RAM (rule R543 step 3). -/
def State.runsOnChip (s : State) : Bool :=
  decide (s.regionOf s.pc.toNat = .ram) || decide (s.regionOf s.pc.toNat = .rom)

/-- Put a value into FRQCR; H'36DB is also the first step of measure B (rule R627). -/
def frqcrPut (v : Half) (s : State) : State :=
  { s with cpg := { s.cpg with frqcr := v &&& 0x7FFF, sync := if v &&& 0x7FFF = 0x36DB then 1 else 0 } }

/-- Write FRQCR: a value outside table 4.4, or a change outside the procedure, is a prohibited setting
(rules R541, R543). -/
def frqcrWrite (v : Half) (s : State) : Access Unit :=
  let v := v &&& 0x7FFF
  if !(frqcrAllowed v) then .stop .prohibitedSetting
  else if decide (v ≠ s.cpg.frqcr) && !(s.runsOnChip && modulesStopped s.power) then .stop .prohibitedSetting
  else .ok () (frqcrPut v s)

/-- Reading FRQCR counts towards measure B (rule R627). -/
def frqcrRead (s : State) : Half × State :=
  let n := s.cpg.sync
  (s.cpg.frqcr, { s with cpg := { s.cpg with sync := if n = 0 ∨ n = 3 then n else n + 1 } })

/-- OSCCR (rule R542). -/
def osccrRead (s : State) : Byte := withBit (withBit 0 2 s.cpg.oscstop) 0 s.cpg.oscers

/-- Put a value into a longword register of the BSC; reserved bits keep their fixed values (rules R546 to R548). -/
def bscPut (id : RegId) (v : Word) (s : State) : State :=
  match id with
  | .cmncr => { s with bsc := { s.bsc with cmncr := (v &&& 0x2) ||| 0x1010 } }
  | .cs0bcr => { s with bsc := { s.bsc with cs0bcr := v &&& 0x36DB0600 } }
  | .cs1bcr => { s with bsc := { s.bsc with cs1bcr := v &&& 0x36DB0600 } }
  | .cs0wcr => { s with bsc := { s.bsc with cs0wcr := v &&& 0x00071FC3 } }
  | .cs1wcr => { s with bsc := { s.bsc with cs1wcr := v &&& 0x00071FC3 } }
  | _ => s

/-- Write a longword register of the BSC: forbidden while the write buffer may drain (rules R552, R689). That CSnWCR written
before CSnBCR takes its full effect too is the model's choice (rules R121, R548; log entry 61). -/
def bscWrite (id : RegId) (v : Word) (s : State) : Access Unit :=
  if s.bsc.extWrite.isSome then .stop .prohibitedSetting else .ok () (bscPut id v s)

/-- BSCEHR with the bits that a write reaches (rule R549). -/
def bscehrNext (v touched : Half) (s : State) : Half := mergeBits s.bsc.bscehr v touched &&& 0x8000

/-- Put a value into BSCEHR. -/
def bscehrPut (v touched : Half) (s : State) : State := { s with bsc := { s.bsc with bscehr := bscehrNext v touched s } }

/-- Write BSCEHR: DTLOCK must not change while the DTC is active (rule R549). -/
def bscehrWrite (v touched : Half) (s : State) : Access Unit :=
  if decide (bscehrNext v touched s ≠ s.bsc.bscehr) && s.dtc.activity.isSome then .stop .prohibitedSetting
  else .ok () (bscehrPut v touched s)

/-- The bits of a DTC enable register that have a source; the others stay 0 (rules R558, R561). -/
def dtcerMask (can2 : Bool) (id : RegId) : Half :=
  match id with
  | .dtcera => 0xF000
  | .dtcerb => 0xFFFF
  | .dtcerc => 0x800F
  | .dtcerd => 0xFFC6
  | .dtcere => if can2 then 0xFCCC else 0xFCC8
  | _ => 0

/-- The DTCE bit of a vector in a register, as a mask. -/
def dtceBit (vec : Nat) (id : RegId) : Half :=
  match (intSources.find? (fun r => decide (r.vec = vec))).bind (fun r => r.dtce) with
  | some (q, k) => if q = id then BitVec.ofNat 16 1 <<< k else 0
  | none => 0

/-- A DTC enable register with the bits that a write reaches (rule R558). -/
def dtcerNext (id : RegId) (v touched : Half) (s : State) : Half :=
  mergeBits (s.dtc.enableReg id) v touched &&& dtcerMask s.part.can2 id

/-- Put a value into a DTC enable register. -/
def dtcerPut (id : RegId) (v touched : Half) (s : State) : State :=
  { s with dtc := s.dtc.setEnableReg id (dtcerNext id v touched s) }

/-- Write a DTC enable register: the bit of the activation in progress must not change (rules R558, R697). -/
def dtcerWrite (id : RegId) (v touched : Half) (s : State) : Access Unit :=
  let busy : Half := match s.dtc.activity with
    | some a => dtceBit a.vec id
    | none => 0
  if (s.dtc.enableReg id ^^^ dtcerNext id v touched s) &&& busy ≠ 0 then .stop .dtcProhibitedSetting
  else .ok () (dtcerPut id v touched s)

/-- DTCCR (rule R559); reading ERR as 1 allows it to be cleared (rule R576), and a read of the debugger has the side effects
of a read of the CPU (rule R640). -/
def dtccrRead (s : State) : Byte × State :=
  (withBit (withBit (withBit 0 4 s.dtc.rrs) 3 s.dtc.rchne) 0 s.dtc.err,
    { s with dtc := { s.dtc with errRead := s.dtc.errRead || s.dtc.err } })

/-- Write DTCCR: RRS = 0 discards the held vector number; ERR takes a 0 after it was read as 1
(rules R559, R564, R576). -/
def dtccrWrite (v : Byte) (s : State) : State :=
  let d := s.dtc
  let clear := !(bitOf v 0) && d.errRead
  { s with dtc := { d with rrs := bitOf v 4, rchne := bitOf v 3, err := d.err && !clear,
                           errRead := d.errRead && !clear, heldVec := if bitOf v 4 then d.heldVec else none } }

/-- Entering module standby initialises the CMT, the UBC and the flash interface (rules R86, R626). That a held user break
request goes with the UBC's registers (rule R482; log entry 48), that a request line of a module outside the scope whose
registers are initialised stays asserted (rules R481, R665; log entry 41), and that an open window of FMATS goes on (rules
R634, R691; log entry 30) is the model's choice. -/
def enterModuleStandby (old new : Power) (s : State) : State :=
  let rises (a b : Byte) (k : Nat) : Bool := !(bitOf a k) && bitOf b k
  let s := if rises old.stbcr4 new.stbcr4 5 then { s with cmt := .reset } else s
  let s := if rises old.stbcr5 new.stbcr5 0 then { s with ubc := .reset } else s
  if rises old.stbcr2 new.stbcr2 6 then { s with flash := { Flash.reset s.mode with ramer := s.flash.ramer } } else s

/-- The AUD registers after an initialisation: the window registers have no initial value (rules R90, R641, conflict
C18). -/
def forgetAud (s : State) : State :=
  let a := s.drawWord
  let b := a.2.drawWord
  let c := b.2.drawWord
  let d := c.2.drawWord
  { d.2 with aud := { Aud.reset with auwasr := a.1, auwaer := b.1, auwbsr := c.1, auwber := d.1 } }

/-- The queue that the AUD shares with the UBC's PC trace is emptied (rules R508, R523, R643). -/
def emptyTrace (s : State) : State := { s with ubc := { s.ubc with trace := [] } }

/-- The AUD's initialisation: its registers and the shared queue (rules R523, R641, R643). -/
def audInit (s : State) : State := forgetAud (emptyTrace s)

/-- A DTC enable bit is set. -/
def Dtc.anyEnabled (d : Dtc) : Bool :=
  decide (d.dtcera ||| d.dtcerb ||| d.dtcerc ||| d.dtcerd ||| d.dtcere ≠ 0)

/-- Put a value into a power-down register; reserved bits keep their fixed values (rules R614 to R619). That AUDSRST can be
set while STBCR5.MSTP25 = 1, and that MSTP25 can be set while the AUD is in use, is the model's choice (rules R618, R640,
R643; log entry 57). A write of RAMCR opens the window of rule R690, whichever bus master writes: the model's choice, which
log entry 30 names. -/
def powerPut (id : RegId) (v : Byte) (s : State) : State :=
  let p := s.power
  let set (q : Power) : State := enterModuleStandby p q { s with power := q }
  match id with
  | .stbcr1 => set { p with stbcr1 := v &&& 0x80 }
  | .stbcr2 => set { p with stbcr2 := (v &&& 0xD0) ||| 0x28 }
  | .stbcr3 => set { p with stbcr3 := v ||| (if s.part.can2 then 0xC0 else 0xC2) }
  | .stbcr4 => set { p with stbcr4 := v ||| 0x07 }
  | .stbcr5 => set { p with stbcr5 := v &&& 0x03 }
  | .stbcr6 =>
    let t := set { p with stbcr6 := v &&& 0xC2 }
    if bitOf v 7 then t else audInit t
  | .ramcr => { s with power := { p with ramcr := v &&& 0x10 }, windows := { s.windows with ramcr := 2 } }
  | _ => s

/-- Write a power-down register. Stopping the DTC while it is active, or with an enable bit set, is a prohibited setting
(rule R560). -/
def powerWrite (id : RegId) (v : Byte) (s : State) : Access Unit :=
  let stopsDtc := decide (id = .stbcr2) && bitOf v 4 && !(bitOf s.power.stbcr2 4)
  if stopsDtc && (s.dtc.activity.isSome || s.dtc.anyEnabled) then .stop .prohibitedSetting
  else .ok () (powerPut id v s)

/-- Read a power-down register (rules R614 to R619). -/
def powerRead (id : RegId) (p : Power) : Byte :=
  match id with
  | .stbcr1 => p.stbcr1
  | .stbcr2 => p.stbcr2
  | .stbcr3 => p.stbcr3
  | .stbcr4 => p.stbcr4
  | .stbcr5 => p.stbcr5
  | .stbcr6 => p.stbcr6
  | .ramcr => p.ramcr
  | _ => 0

/-- Read a flash interface register: H'00 in mode 0 (rules R129, R631 to R635). -/
def flashRegRead (id : RegId) (s : State) : Byte :=
  if s.mode = .mode0 then 0
  else
    match id with
    | .fccs => withBit (withBit 0 7 s.mode.fwe) 6 (decide (s.flash.fmats = 0xAA))
    | .fpcs => withBit 0 0 s.flash.ppvs
    | .fecs => withBit 0 0 s.flash.epvb
    | .fkey => s.flash.fkey
    | .fmats => s.flash.fmats
    | .ftdar => s.flash.ftdar
    | _ => 0

/-- Put a value into a flash interface register; FCCS has no storage (rules R631 to R635). A write of FMATS opens the window
of rule R691, whichever bus master writes (log entry 30). -/
def flashPut (id : RegId) (v : Byte) (s : State) : State :=
  match id with
  | .fpcs => { s with flash := { s.flash with ppvs := bitOf v 0 } }
  | .fecs => { s with flash := { s.flash with epvb := bitOf v 0 } }
  | .fkey => { s with flash := { s.flash with fkey := v } }
  | .fmats =>
    { s with flash := { s.flash with fmats := v }, windows := { s.windows with fmats := 5 } }
  | .ftdar => { s with flash := { s.flash with ftdar := v } }
  | _ => s

/-- Write a flash interface register: ignored in mode 0; the download request FCCS.SCO is where the model stops; FMATS
can be written only by code in on-chip RAM (rules R129, R631 to R635, R691). -/
def flashRegWrite (id : RegId) (v : Byte) (s : State) : Access Unit :=
  if s.mode = .mode0 then .ok () s
  else if decide (id = .fccs) && bitOf v 0 && decide (s.flash.fkey = 0xA5) && s.runsInRam && !(ramsOf s.flash.ramer) then
    .stop .flashDownloadUnsupported
  else if decide (id = .fmats) && !s.runsInRam then .ok () s
  else .ok () (flashPut id v s)

/-- Write RAMER (rules R636, R692). The window opens whichever bus master writes, and of two writes before the next
instruction the value before the last alone counts as the old one: the model's choices (log entry 30). -/
def ramerWrite (v touched : Half) (s : State) : State :=
  { s with flash := { s.flash with ramer := mergeBits s.flash.ramer v touched &&& 0x000F },
           windows := { s.windows with ramer := 2, ramerOld := s.flash.ramer } }

/-- Read an AUD register (rule R641). -/
def audRegRead (id : RegId) (a : Aud) : Word :=
  match id with
  | .aucsr => a.aucsr
  | .auwasr => a.auwasr
  | .auwaer => a.auwaer
  | .auwbsr => a.auwbsr
  | .auwber => a.auwber
  | .auecsr => a.auecsr
  | _ => 0

/-- Put a value into an AUD register; turning the trace on empties the queue shared with the UBC (rules R641, R643). That
AUCSR takes another CLK while EN = 1, and holds the reserved codes 01 and 10 of OC, with no effect but the stored value, and
that EN set again while the AUD still has data to output takes effect at once, is the model's choice (rules R641, R643; log
entry 57). -/
def audPut (id : RegId) (v : Word) (s : State) : State :=
  let a := s.aud
  match id with
  | .aucsr =>
    let t := { s with aud := { a with aucsr := v &&& 0xCFF3 } }
    if bitOf v 0 && !(bitOf a.aucsr 0) then emptyTrace t else t
  | .auwasr => { s with aud := { a with auwasr := v } }
  | .auwaer => { s with aud := { a with auwaer := v } }
  | .auwbsr => { s with aud := { a with auwbsr := v } }
  | .auwber => { s with aud := { a with auwber := v } }
  | .auecsr => { s with aud := { a with auecsr := (v &&& 0x24E) ||| 1 } }
  | _ => s

/-- Write an AUD register: nothing while the AUD is held in reset; tracing together with the UBC's PC trace is a prohibited
setting (rules R618, R641, R643). That AUCSR.EN = 1 counts as tracing in RAM monitor mode and with the AUD's clock stopped too
is the model's choice (log entry 29). That a window register, AUECSR or AUCSR.CLK takes a write while EN = 1 is the model's
choice (rule R641; log entry 57). -/
def audRegWrite (id : RegId) (v : Word) (s : State) : Access Unit :=
  if !(bitOf s.power.stbcr6 7) || !s.pins.audrst then .ok () s
  else if decide (id = .aucsr) && bitOf v 0 && s.ubc.regs.pcte then .stop .prohibitedSetting
  else .ok () (audPut id v s)

end Sys2Proof.Machine
end

