-- ==== Sys2Proof/Machine/Io.lean ====
section
/-! DEFINITION. Accesses to the address space: the checks of rule R104, the peripheral registers of rule R70, and the
reads, writes and fetches of the CPU, the DTC and the AUD, with what the UBC sees of them. -/

namespace Sys2Proof.Machine

/-- The bus masters inside the chip (rule R130). -/
inductive Master where
  | cpu | dtc | aud
  deriving DecidableEq, Repr

/-- The value of a register, right-aligned, and what reading its `touched` bits changes. A register outside the scope
reads as a free value (rules R5, R70 (d)). -/
def regRead (id : RegId) (touched : Word) (s : State) : Word × State :=
  let t : Half := touched.setWidth 16
  let half (x : Half × State) : Word × State := (x.1.setWidth 32, x.2)
  match id with
  | .icr0 | .irqcr | .irqsr | .ipra | .iprd | .ipre | .iprf | .iprh | .ipri | .iprj | .iprk | .iprl | .iprm =>
    half (intcRead id t s)
  | .bara | .bamra | .bbra | .bdra | .bdmra | .barb | .bamrb | .bbrb | .bdrb | .bdmrb | .brcr | .brsr | .brdr
  | .betr => ubcRead id s
  | .cmstr | .cmcsr0 | .cmcnt0 | .cmcor0 | .cmcsr1 | .cmcnt1 | .cmcor1 => half (cmtRead id t s)
  | .frqcr => half (frqcrRead s)
  | .osccr => ((osccrRead s).setWidth 32, s)
  | .wtcnt => (s.wdt.wtcnt.setWidth 32, s)
  | .wtcsr => (s.wdt.wtcsr.setWidth 32, s)
  | .stbcr1 | .stbcr2 | .stbcr3 | .stbcr4 | .stbcr5 | .stbcr6 | .ramcr => ((powerRead id s.power).setWidth 32, s)
  | .cmncr => (s.bsc.cmncr, s)
  | .cs0bcr => (s.bsc.cs0bcr, s)
  | .cs1bcr => (s.bsc.cs1bcr, s)
  | .cs0wcr => (s.bsc.cs0wcr, s)
  | .cs1wcr => (s.bsc.cs1wcr, s)
  | .bscehr => (s.bsc.bscehr.setWidth 32, s)
  | .dtcera | .dtcerb | .dtcerc | .dtcerd | .dtcere => ((s.dtc.enableReg id).setWidth 32, s)
  | .dtccr => let r := dtccrRead s; (r.1.setWidth 32, r.2)
  | .dtcvbr => (s.dtc.dtcvbr, s)
  | .fccs | .fpcs | .fecs | .fkey | .fmats | .ftdar => ((flashRegRead id s).setWidth 32, s)
  | .ramer => (s.flash.ramer.setWidth 32, s)
  | .aucsr | .auwasr | .auwaer | .auwbsr | .auwber | .auecsr => (audRegRead id s.aud, s)
  | .outside => s.drawWord

/-- Write the `touched` bits of a register. A register outside the scope takes no write (rule R5). WTCNT and WTCSR are
written only with their keys, by word (rule R593), and not through this function. -/
def regWrite (id : RegId) (v touched : Word) (s : State) : Access Unit :=
  let h : Half := v.setWidth 16
  let t : Half := touched.setWidth 16
  let b : Byte := v.setWidth 8
  match id with
  | .icr0 | .irqcr | .irqsr | .ipra | .iprd | .ipre | .iprf | .iprh | .ipri | .iprj | .iprk | .iprl | .iprm =>
    .ok () (intcWrite id h t s)
  | .bara | .bamra | .bbra | .bdra | .bdmra | .barb | .bamrb | .bbrb | .bdrb | .bdmrb | .brcr | .brsr | .brdr
  | .betr => ubcWrite id v s
  | .cmstr | .cmcsr0 | .cmcnt0 | .cmcor0 | .cmcsr1 | .cmcnt1 | .cmcor1 => .ok () (cmtWrite id h t s)
  | .frqcr => frqcrWrite h s
  | .osccr => .ok () { s with cpg := { s.cpg with oscers := bitOf b 0 } }
  | .wtcnt | .wtcsr | .outside => .ok () s
  | .stbcr1 | .stbcr2 | .stbcr3 | .stbcr4 | .stbcr5 | .stbcr6 | .ramcr => powerWrite id b s
  | .cmncr | .cs0bcr | .cs1bcr | .cs0wcr | .cs1wcr => bscWrite id v s
  | .bscehr => bscehrWrite h t s
  | .dtcera | .dtcerb | .dtcerc | .dtcerd | .dtcere => dtcerWrite id h t s
  | .dtccr => .ok () (dtccrWrite b s)
  | .dtcvbr => .ok () { s with dtc := { s.dtc with dtcvbr := mergeBits s.dtc.dtcvbr v touched &&& 0xFFFFF000 } }
  | .fccs | .fpcs | .fecs | .fkey | .fmats | .ftdar => flashRegWrite id b s
  | .ramer => .ok () (ramerWrite h t s)
  | .aucsr | .auwasr | .auwaer | .auwbsr | .auwber | .auecsr => audRegWrite id v s

/-- The bits of `n` low bytes. -/
def lowBytes (n : Nat) : Word := BitVec.ofNat 32 (2 ^ (8 * n) - 1)

/-- How far the bytes of a part lie above bit 0 of its register. -/
def RegPart.shift (p : RegPart) : Nat := 8 * (p.reg.bytes - p.off - p.len)

/-- Read the parts of an access at rising addresses, most significant first (rules R70 (b), R111). -/
def readParts : List RegPart → Word → State → Word × State
  | [], acc, s => (acc, s)
  | p :: rest, acc, s =>
    let r := regRead p.reg.id (lowBytes p.len <<< p.shift) s
    readParts rest ((acc <<< (8 * p.len)) ||| ((r.1 >>> p.shift) &&& lowBytes p.len)) r.2

/-- Write the parts of an access at rising addresses; `n` bytes of `v` are still to be written. -/
def writeParts : List RegPart → Nat → Word → State → Access Unit
  | [], _, _, s => .ok () s
  | p :: rest, n, v, s =>
    let x := (v >>> (8 * (n - p.len))) &&& lowBytes p.len
    (regWrite p.reg.id (x <<< p.shift) (lowBytes p.len <<< p.shift) s).bind
      (fun _ s => writeParts rest (n - p.len) v s)

/-- The parts of an access that the map allows: the address is a register's, the size is listed for it, and no module
it touches is stopped (rules R70, R111, R626). That the size is looked at before the clock is the model's choice, and so is
that in mode 0 with MSTP6 = 1 an access to a register of the flash interface stops, where R74 and R129 give every read H'00 and
every write no effect and R626 stops it (log entry 22). -/
def allowedParts (s : State) (z : Size) (a : Nat) : Except Fault (List RegPart) :=
  match regAt s.part a with
  | none => .error .reservedAddress
  | some r =>
    if !(r.allows z) then .error .badAccessSize
    else
      match coverRegs s.part a 4 z.bytes with
      | none => .error .reservedAddress
      | some l => if l.any (fun p => p.reg.module.stopped s.power) then .error .moduleStopped else .ok l

/-- The address of WTCNT or WTCSR (rule R590). -/
def wdtAddress (a : Nat) : Bool := decide (a = 0xFFFFE810) || decide (a = 0xFFFFE812)

/-- Read the peripheral space. A word read of WTCNT or WTCSR has the register in its low byte and an open upper byte
(rule R593). -/
def periphRead (s : State) (z : Size) (a : Nat) : Access Word :=
  if wdtAddress a then
    let r : Byte := if a = 0xFFFFE810 then s.wdt.wtcnt else s.wdt.wtcsr
    match z with
    | .byte => .ok (r.setWidth 32) s
    | .word => let d := s.drawWord; .ok (((d.1.extractLsb' 0 8) ++ r : Half).setWidth 32) d.2
    | .long => .stop .badAccessSize
  else
    match allowedParts s z a with
    | .error f => .stop f
    | .ok l => let r := readParts l 0 s; .ok r.1 r.2

/-- Write the peripheral space. WTCNT and WTCSR take only a keyed word; a byte or longword changes nothing
(rule R593). -/
def periphWrite (s : State) (z : Size) (a : Nat) (v : Word) : Access Unit :=
  if wdtAddress a then
    match z with
    | .word =>
      let h : Half := v.setWidth 16
      .ok () { s with wdt := if a = 0xFFFFE810 then wdtWriteCount h s.wdt else wdtWriteStatus h s.wdt }
    | .byte | .long => .ok () s
  else
    match allowedParts s z a with
    | .error f => .stop f
    | .ok l => writeParts l z.bytes v s

/-- The address breaks the alignment of the size (rule R104 check 1). -/
def misaligned (z : Size) (a : Word) : Bool := decide (a.toNat % z.bytes ≠ 0)

/-- Read with the checks of rule R104 in their order. -/
def busRead (m : Master) (fetch : Bool) (s : State) (z : Size) (a : Word) : Access Word :=
  if misaligned z a then .addressError s
  else
    match s.regionOf a.toNat with
    | .singleChipExternal => .addressError s
    | .reserved => .stop .reservedAddress
    | .peripheral => if fetch then .addressError s else periphRead s z a.toNat
    | .rom => romRead fetch s z a.toNat
    | .ram => ramRead fetch s z a.toNat
    | .cs0 => externalRead (decide (m = .cpu)) false s z a.toNat
    | .cs1 => externalRead (decide (m = .cpu)) true s z a.toNat

/-- Write with the checks of rule R104 in their order. -/
def busWrite (s : State) (z : Size) (a : Word) (v : Word) : Access Unit :=
  if misaligned z a then .addressError s
  else
    match s.regionOf a.toNat with
    | .singleChipExternal => .addressError s
    | .reserved => .stop .reservedAddress
    | .peripheral => periphWrite s z a.toNat v
    | .rom => romWrite s z a.toNat v
    | .ram => ramWrite s z a.toNat v
    | .cs0 => externalWrite false s z a.toNat v
    | .cs1 => externalWrite true s z a.toNat v

/-- The CPU reaches the address over the I bus: peripheral registers and external memory (rule R131). -/
def State.onIBus (s : State) (a : Word) : Bool :=
  match s.regionOf a.toNat with
  | .peripheral | .cs0 | .cs1 => true
  | .rom | .ram | .reserved | .singleChipExternal => false

/-- A data cycle of the CPU passes the UBC: on the L bus always, on the I bus when it leaves the L bus
(rules R510, R514, R515). That the I-bus cycle counts as a later one for the sequential condition is the model's choice
(rule R519; log entry 49). -/
def observeCpu (write : Bool) (z : Size) (a v : Word) (s : State) : State :=
  let c : BusCycle := { ibus := false, dtc := false, fetch := false, write := write, size := z, addr := a, data := v }
  let s := ubcObserve c s
  if s.onIBus a then ubcObserve { c with ibus := true } s else s

/-- A read of the CPU. A misaligned or forbidden read still passes the UBC (rule R522 (c)); a completed read of a UBC
register, its own cycle still matched with either setting, ends what earlier writes left open (rules R509, R686). -/
def cpuRead (s : State) (z : Size) (a : Word) : Access Word :=
  match busRead .cpu false s z a with
  | .ok v s => .ok v (ubcReadBack a (observeCpu false z a v s))
  | .addressError s => let d := s.drawValue z; .addressError (observeCpu false z a d.1 d.2)
  | .stop f => .stop f

/-- The halfword at an address as it stands, for the prefetch window (rule R136). -/
def State.halfAt (s : State) (a : Nat) : Half := s.byteAt a ++ s.byteAt (a + 1)

/-- The halfwords that a store to a cell changes may already have been fetched by the next four instructions
(rule R136). -/
def noteStore (s : State) (z : Size) (c : Nat) : List Stale :=
  let base := c - c % 2
  let one (k : Nat) : Stale := { cell := base + k, old := s.halfAt (base + k), left := 5 }
  match z with
  | .byte | .word => [one 0]
  | .long => [one 0, one 2]

/-- The store reaches memory that instructions are fetched from. -/
def State.fetchable (s : State) (a : Word) : Bool :=
  match s.regionOf a.toNat with
  | .rom | .ram | .cs0 | .cs1 => true
  | .peripheral | .reserved | .singleChipExternal => false

/-- Remember the halfwords that a store to a cell is about to change (rule R136). -/
def noteCell (before : State) (z : Size) (c : Nat) (s : State) : State :=
  { s with windows := { s.windows with stale := noteStore before z c ++ s.windows.stale } }

/-- Remember the halfwords that a store of any master is about to change (rule R136; log entry 17). -/
def openStale (before : State) (z : Size) (a : Word) (s : State) : State :=
  if before.fetchable a then noteCell before z (before.storeAddress a) s else s

/-- A write of the CPU. That it may store into the transfer information of the activation that runs, which the spec's list U3a
calls a fault and no rule does, is the model's choice (rules R558, R697; log entry 61). -/
def cpuWrite (s : State) (z : Size) (a v : Word) : Access Unit :=
  match busWrite s z a v with
  | .ok _ s' => .ok () (observeCpu true z a v (openStale s z a s'))
  | .addressError s => .addressError (observeCpu true z a v s)
  | .stop f => .stop f

/-- A read of the DTC, seen by the UBC on the I bus (rules R515, R572). -/
def dtcRead (s : State) (z : Size) (a : Word) : Access Word :=
  (busRead .dtc false s z a).bind (fun v s =>
    .ok v (ubcObserve
      { ibus := true, dtc := true, fetch := false, write := false, size := z, addr := a, data := v } s))

/-- A write of the DTC, seen by the UBC on the I bus (rules R515, R572). -/
def dtcWrite (s : State) (z : Size) (a v : Word) : Access Unit :=
  (busWrite s z a v).bind (fun _ t =>
    .ok () (ubcObserve
      { ibus := true, dtc := true, fetch := false, write := true, size := z, addr := a, data := v }
      (openStale s z a t)))

/-- The cell that a fetch reads: in the ROM region the overlaid RAM where it shows (rules R125, R136, R545). -/
def State.fetchCell (s : State) (a : Word) : Nat :=
  if s.regionOf a.toNat = .rom ∧ !(overlays s.flash.ramer a.toNat || s.ramerUncertain a.toNat) then a.toNat
  else s.storeAddress a

/-- The halfword fetched from a cell, or one that a recent store replaced (rule R136). -/
def staleChoice : List Stale → Nat → Half → State → Half × State
  | [], _, h, s => (h, s)
  | e :: rest, a, h, s =>
    if e.cell = a then
      let d := s.drawBit
      staleChoice rest a (if d.1 then e.old else h) d.2
    else staleChoice rest a h s

/-- `Fetch(a)` of rules R102 and R104 with the prefetch window of rule R136. A fetch from external memory is also an
I-bus fetch cycle (rule R515). -/
def fetchHalf (s : State) (a : Word) : Access Half :=
  (busRead .cpu true s .word a).bind (fun v s =>
    let x := staleChoice s.windows.stale (s.fetchCell a) (v.setWidth 16) s
    let s := x.2
    .ok x.1 (if s.onIBus a then
      ubcObserve { ibus := true, dtc := false, fetch := true, write := false, size := .word, addr := a, data := v } s
    else s))

/-- The aligned operand that contains a misaligned address. -/
def container (z : Size) (a : Word) : Word := a - BitVec.ofNat 32 (a.toNat % z.bytes)

/-- Put a whole value into the storage of a register past every check of a write, its flags included; what the value brings
about follows as after a write. Reserved bits, and what a pin shows, stay (rule R106; log entry 9). -/
def regForce (id : RegId) (v : Word) (s : State) : State :=
  let h : Half := v.setWidth 16
  let b : Byte := v.setWidth 8
  let status (c : CmtChannel) : CmtChannel := { c with cmcsr := h &&& 0x00C3, cmfRead := c.cmfRead && bitOf h 7 }
  match id with
  | .icr0 | .irqcr | .ipra | .iprd | .ipre | .iprf | .iprh | .ipri | .iprj | .iprk | .iprl | .iprm =>
    intcWrite id h 0xFFFF s
  | .irqsr =>
    { s with intc := { s.intc with irqF := v.extractLsb' 0 4, irqRead := s.intc.irqRead &&& v.extractLsb' 0 4 } }
  | .bara | .bamra | .bbra | .bdra | .bdmra | .barb | .bamrb | .bbrb | .bdrb | .bdmrb | .betr => ubcPut id v s
  | .brcr =>
    ubcNote true (fun m => { m with ca := bitOf v 15, cb := bitOf v 14, da := bitOf v 13, db := bitOf v 12 }) (ubcPut id v s)
  | .brsr => forceSource v s
  | .brdr => forceDestination v s
  | .cmcsr0 => { s with cmt := { s.cmt with ch0 := status s.cmt.ch0 } }
  | .cmcsr1 => { s with cmt := { s.cmt with ch1 := status s.cmt.ch1 } }
  | .cmstr | .cmcnt0 | .cmcor0 | .cmcnt1 | .cmcor1 => cmtWrite id h 0xFFFF (clearRaces s)
  | .frqcr => frqcrPut h s
  | .osccr => { s with cpg := { s.cpg with oscers := bitOf b 0, oscstop := bitOf b 2 } }
  | .wtcnt => { s with wdt := wdtWriteCount (0x5A#8 ++ b) s.wdt }
  | .wtcsr => { s with wdt := wdtWriteStatus (0xA5#8 ++ b) s.wdt }
  | .stbcr1 | .stbcr2 | .stbcr3 | .stbcr4 | .stbcr5 | .stbcr6 | .ramcr => powerPut id b s
  | .cmncr | .cs0bcr | .cs1bcr | .cs0wcr | .cs1wcr => bscPut id v s
  | .bscehr => bscehrPut h 0xFFFF s
  | .dtcera | .dtcerb | .dtcerc | .dtcerd | .dtcere => dtcerPut id h 0xFFFF s
  | .dtccr =>
    { dtccrWrite b s with dtc := { (dtccrWrite b s).dtc with err := bitOf b 0, errRead := s.dtc.errRead && bitOf b 0 } }
  | .dtcvbr => { s with dtc := { s.dtc with dtcvbr := v &&& 0xFFFFF000 } }
  | .fccs | .fpcs | .fecs | .fkey | .fmats | .ftdar => flashPut id b s
  | .ramer => ramerWrite h 0xFFFF s
  | .aucsr | .auwasr | .auwaer | .auwbsr | .auwber | .auecsr => audPut id v s
  | .outside => s

/-- What a register holds, with no effect of a read but the free values it takes. -/
def regHeld (id : RegId) (s : State) : Word × State :=
  match id with
  | .brsr => brsrWord s
  | .brdr => brdrWord s
  | _ => let r := regRead id 0 s; (r.1, { s with draws := r.2.draws })

/-- Make the byte at an address of a register open, whatever a write there would be refused for (rule R106; log
entry 9). -/
def spoilRegister (r : RegDesc) (a : Nat) (s : State) : State :=
  let d := s.drawWord
  let touched := lowBytes 1 <<< (8 * (r.bytes - 1 - (a - r.addr)))
  let h := regHeld r.id d.2
  regForce r.id (mergeBits h.1 d.1 touched) h.2

/-- Make the byte at an address open, where one is (rule R106). That in the RAMER window a misaligned store into the shared RAM
opens the bytes of the RAM alone, and none of the flash which R692 lets the access reach, is the model's choice (log entry
9). -/
def spoilByte (a : Nat) (s : State) : State :=
  match s.regionOf a with
  | .ram => let d := s.drawWord; d.2.store .byte a d.1
  | .cs0 => let d := s.drawWord; d.2.store .byte (extCell false a) d.1
  | .cs1 => let d := s.drawWord; d.2.store .byte (extCell true a) d.1
  | .rom =>
    let d := s.drawWord
    let p := showsRam d.2 a
    if p.1 then p.2.store .byte (overlayAlias a) d.1
    else if p.2.flash.fmats = 0xAA then { p.2 with bootMat := Memory.put p.2.bootMat a (d.1.extractLsb' 0 8) }
    else p.2.store .byte a d.1
  | .peripheral =>
    match regAt s.part a with
    | some r => spoilRegister r a s
    | none => s
  | .reserved | .singleChipExternal => s

/-- Make `n` bytes from an address on open. -/
def spoilBytes : Nat → Nat → State → State
  | 0, _, s => s
  | n + 1, a, s => spoilBytes n (a + 1) (spoilByte a s)

/-- One step of the windows after a CPU instruction (rules R136, R690 to R692). -/
def tickWindows (s : State) : State :=
  let w := s.windows
  { s with windows := { w with
      stale := (w.stale.map (fun e => { e with left := e.left - 1 })).filter (fun e => decide (0 < e.left))
      ramcr := w.ramcr - 1, fmats := w.fmats - 1, ramer := w.ramer - 1 } }

/-- Between two steps a window has no instruction left but those that follow: what a store that no instruction made opened
counts no storing instruction (rules R127, R136, R690 to R692; log entry 30). -/
def boundWindows (s : State) : State :=
  let w := s.windows
  { s with windows := { w with
      stale := w.stale.map (fun e => { e with left := min e.left 4 })
      ramcr := min w.ramcr 1, fmats := min w.fmats 4, ramer := min w.ramer 1 } }

/-- A taken branch refetches: nothing stale is left (rule R136). -/
def clearStale (s : State) : State := { s with windows := { s.windows with stale := [] } }

end Sys2Proof.Machine
end

