-- ==== Sys2Proof/Machine/Operands.lean ====
section
/-! DEFINITION. Registers and operand forms: the general registers, the fields of SR, and the eleven addressing modes of
rule R156 with the immediates and displacements of rules R154 and R155. -/

namespace Sys2Proof.Machine

/-- `R[n]` (rule R21). -/
def State.reg (s : State) (n : Reg) : Word := s.regs[n.toNat]'n.isLt

/-- `R[n] <- v` (rule R21). -/
def State.setReg (s : State) (n : Reg) (v : Word) : State := { s with regs := s.regs.set n.toNat v n.isLt }

/-- SR.T (rule R24). -/
def State.flagT (s : State) : Bool := bitOf s.sr 0

/-- SR.S (rule R24). -/
def State.flagS (s : State) : Bool := bitOf s.sr 1

/-- SR.Q (rule R24). -/
def State.flagQ (s : State) : Bool := bitOf s.sr 8

/-- SR.M (rule R24). -/
def State.flagM (s : State) : Bool := bitOf s.sr 9

/-- `SR.T <- b`. -/
def State.setT (s : State) (b : Bool) : State := { s with sr := withBit s.sr 0 b }

/-- `SR.Q <- b`. -/
def State.setQ (s : State) (b : Bool) : State := { s with sr := withBit s.sr 8 b }

/-- `SR.M <- b`. -/
def State.setM (s : State) (b : Bool) : State := { s with sr := withBit s.sr 9 b }

/-- SR with I3..I0 replaced (rule R24). -/
def withMask (sr : Word) (level : Nat) : Word :=
  let field : Word := BitVec.ofNat 32 (level % 16)
  (sr &&& (0xFFFFFF0F : Word)) ||| (field <<< 4)

/-- Writing SR as a whole stores only its implemented bits (rule R25). -/
def State.writeSr (s : State) (v : Word) : State := { s with sr := v &&& 0x000003F3 }

/-- MACH :: MACL (rule R28). -/
def State.mac (s : State) : BitVec 64 := s.mach ++ s.macl

/-- `MACH :: MACL <- v` (rule R28). -/
def State.setMac (s : State) (v : BitVec 64) : State :=
  { s with mach := v.extractLsb' 32 32, macl := v.extractLsb' 0 32 }

/-- `sext_8` of an immediate (rule R154). -/
def sext8 (v : BitVec 8) : Word := v.signExtend 32

/-- `zext_8` of an immediate (rule R154). -/
def zext8 (v : BitVec 8) : Word := v.setWidth 32

/-- The PC operand: the address four bytes after the instruction (rules R30, R157). -/
def State.pcOperand (s : State) : Word := s.pc + 4

/-- A zero-extended displacement scaled by the operand size (rule R155). -/
def scaled (z : Size) (disp : Nat) : Word := BitVec.ofNat 32 (disp * z.bytes)

/-- `@(disp,Rn)` (rule R155). -/
def State.eaDisp (s : State) (z : Size) (disp : Nat) (n : Reg) : Word := s.reg n + scaled z disp

/-- `@(R0,Rn)` (rule R156). -/
def State.eaIndexed (s : State) (n : Reg) : Word := s.reg n + s.reg 0

/-- `@(disp,GBR)` (rule R155). -/
def State.eaGbr (s : State) (z : Size) (disp : Nat) : Word := s.gbr + scaled z disp

/-- `@(R0,GBR)` (rule R156). -/
def State.eaGbrIndexed (s : State) : Word := s.gbr + s.reg 0

/-- `@-Rn`: the decremented address (rule R156). -/
def State.eaPreDec (s : State) (z : Size) (n : Reg) : Word := s.reg n - BitVec.ofNat 32 z.bytes

/-- `@(disp,PC)` of a word operand (rule R155). -/
def State.eaPcWord (s : State) (disp : Nat) : Word := s.pcOperand + scaled .word disp

/-- `@(disp,PC)` of a longword operand and of MOVA: the low two bits of PC are masked (rule R155). -/
def State.eaPcLong (s : State) (disp : Nat) : Word := (s.pcOperand &&& 0xFFFFFFFC) + scaled .long disp

/-- The target of an 8-bit branch displacement (rule R155). -/
def State.target8 (s : State) (disp : BitVec 8) : Word := s.pcOperand + (disp.signExtend 32 <<< 1)

/-- The target of a 12-bit branch displacement (rule R155). -/
def State.target12 (s : State) (disp : BitVec 12) : Word := s.pcOperand + (disp.signExtend 32 <<< 1)

/-- A loaded byte or word is sign-extended to a longword (rule R103). -/
def extendLoad (z : Size) (v : Word) : Word :=
  match z with
  | .byte => (v.setWidth 8).signExtend 32
  | .word => (v.setWidth 16).signExtend 32
  | .long => v

/-- The low half of a register as a signed number (rule R277). -/
def signedHalf (v : Word) : Int := (v.setWidth 16).toInt

/-- The low half of a register as an unsigned number (rule R278). -/
def unsignedHalf (v : Word) : Nat := (v.setWidth 16).toNat

end Sys2Proof.Machine
end

