-- ==== Sys2Proof/Machine/Reset.lean ====
section
/-! DEFINITION. What the resets and a cut of the power initialise (rules R32, R86, R410 to R415, R624 to R626,
R660 to R665). -/

namespace Sys2Proof.Machine

/-- The peripheral registers as a power-on reset by RES leaves them (rules R86, R411, R662). -/
def initialiseAll (s : State) : State :=
  { s with intc := .reset, ubc := .reset, dtc := .reset, bsc := .reset, cpg := .reset, wdt := .reset, cmt := .reset,
           power := .reset, flash := .reset s.mode, aud := .reset, windows := .reset, lines := [] }

/-- Free values for `n` general registers from number `k` on (rule R32). -/
def drawRegs : Nat → Nat → State → State
  | 0, _, s => s
  | n + 1, k, s =>
    let d := s.drawWord
    drawRegs n (k + 1) (d.2.setReg (BitVec.ofNat 4 k) d.1)

/-- The CPU registers lose their values: all of them are free, the mask among them, but for SR's reserved bits, which read 0
(rules R24, R390, R624, R626, U9); and the hidden state of the CPU is empty (rule R661). -/
def forgetCpu (s : State) : State :=
  let s := drawRegs 16 0 s
  let sr := s.drawWord
  let gbr := sr.2.drawWord
  let vbr := gbr.2.drawWord
  let mach := vbr.2.drawWord
  let macl := mach.2.drawWord
  let pr := macl.2.drawWord
  let pc := pr.2.drawWord
  { pc.2 with sr := sr.1 &&& 0x3F3, gbr := gbr.1, vbr := vbr.1, mach := mach.1, macl := macl.1,
              pr := pr.1, pc := pc.1, slot := none, irqBlock := false }

/-- The CPU registers as a reset leaves them: the mask is 15, VBR is 0, the others have no value (rules R24, R27, R32,
R661). -/
def resetCpu (s : State) : State :=
  let t := forgetCpu s
  { t with sr := withMask t.sr 15, vbr := 0 }

/-- The RAM loses its contents (rules R128, R624, R626). -/
def forgetRam (s : State) : State :=
  { s with mem := s.mem.filter (fun c => decide (c.1 < s.part.ramBase)), ramEpoch := s.ramEpoch + 1 }

/-- Everything a power-on reset initialises (rules R411, R661, R662). An external write still in progress is cut
(rule R552). -/
def powerOnInit (s : State) : State := forgetAud (initialiseAll (resetCpu (cutExternalWrite s)))

/-- The power is cut: deep software standby and hardware standby. The CPU's registers and the RAM have no value, the modules
are initialised (rules R390, R624, R626, R665, U9); the power-on reset that alone ends both gives the CPU its reset values. -/
def powerCut (s : State) : State := forgetAud (initialiseAll (forgetCpu (forgetRam s)))

/-- A power-on reset by RES begins (rules R411, R661, R662). -/
def powerOnReset (s : State) : State := { powerOnInit s with proc := .resetHeld .powerOn }

/-- A power-on reset by the WDT: FRQCR, the WDT and OSCSTOP are kept (rules R412, R595, R664), and with FRQCR how far measure
B has come, which rule R627 lets only a write of FRQCR end (log entry 45). -/
def wdtPowerOnReset (s : State) : State :=
  { powerOnInit s with
    wdt := s.wdt
    cpg := { s.cpg with oscers := Cpg.reset.oscers }
    proc := .resetEntry .wdtPowerOn }

/-- What a manual reset initialises: the CPU, the INTC, RAMER, the AUD, the PC trace queue and the held requests; all
else is kept. An external write in progress ends first. BRCR.PCTE is among what is kept, so a trace that was on goes on from
the empty queue (rules R413, R415, R482, R552, R663; log entry 51). That the windows of RAMCR and FMATS go on through it, as
both registers are kept, and those of RAMER and of the prefetch end, is the model's choice (rules R136, R634, R690 to R692;
log entry 30). -/
def manualInit (s : State) : State :=
  let s := forgetAud (resetCpu s)
  let release (m : UbcMatch) : UbcMatch := { m with pending := false, late := 0 }
  { s with
    intc := .reset
    flash := { s.flash with ramer := 0 }
    windows := { s.windows with stale := [], ramer := 0, ramerOld := 0 }
    bsc := { s.bsc with extWrite := none }
    ubc := { s.ubc with trace := [], live := release s.ubc.live, saved := release s.ubc.saved }
    dtc := { s.dtc with addressError := false } }

/-- The modules and the bus are clocked. -/
def Proc.clocked : Proc → Bool
  | .run | .sleep | .resetEntry _ | .resetHeld .manual | .resetHeld .wdtManual => true
  | .standby _ | .deep | .hardware | .resetHeld .powerOn | .resetHeld .wdtPowerOn => false

end Sys2Proof.Machine
end

