-- ==== Sys2Proof/Machine/Dtc.lean ====
section
/-! DEFINITION. The data transfer controller as an agent (62_platform_devices.md, part 3): its activation requests, and
one activation bus access by bus access (rule R572). -/

namespace Sys2Proof.Machine

/-- MRA.MD (rule R556). -/
def DtcInfo.mode (i : DtcInfo) : BitVec 2 := i.mra.extractLsb' 6 2

/-- The size of a datum, MRA.Sz (rule R556). -/
def DtcInfo.size (i : DtcInfo) : Size :=
  if i.mra.extractLsb' 4 2 = 0 then .byte else if i.mra.extractLsb' 4 2 = 1 then .word else .long

/-- MD = 11 or Sz = 11 (rule R556). -/
def DtcInfo.prohibited (i : DtcInfo) : Bool := decide (i.mode = 3) || decide (i.mra.extractLsb' 4 2 = 3)

/-- MRB.CHNE (rule R556). -/
def DtcInfo.chne (i : DtcInfo) : Bool := bitOf i.mrb 7

/-- MRB.CHNS. -/
def DtcInfo.chns (i : DtcInfo) : Bool := bitOf i.mrb 6

/-- MRB.DISEL. -/
def DtcInfo.disel (i : DtcInfo) : Bool := bitOf i.mrb 5

/-- MRB.DTS: the source is the repeat or block area. -/
def DtcInfo.dts (i : DtcInfo) : Bool := bitOf i.mrb 4

/-- `step(a, M)` of rule R565. -/
def dtcStep (m : BitVec 2) (z : Size) (a : Word) : Word :=
  if m = 2 then a + BitVec.ofNat 32 z.bytes else if m = 3 then a - BitVec.ofNat 32 z.bytes else a

/-- `n` steps back (rules R567, R568). -/
def dtcUnstep (m : BitVec 2) (z : Size) (n : Nat) (a : Word) : Word :=
  if m = 2 then a - BitVec.ofNat 32 (n * z.bytes) else if m = 3 then a + BitVec.ofNat 32 (n * z.bytes) else a

/-- SM[1:0]. -/
def DtcInfo.sm (i : DtcInfo) : BitVec 2 := i.mra.extractLsb' 2 2

/-- DM[1:0]. -/
def DtcInfo.dm (i : DtcInfo) : BitVec 2 := i.mrb.extractLsb' 2 2

/-- CRAH, the repeat count or block length, 256 for 0 (rule R557). -/
def DtcInfo.length (i : DtcInfo) : Nat :=
  if i.cra.extractLsb' 8 8 = 0 then 256 else (i.cra.extractLsb' 8 8).toNat

/-- CRAL. -/
def DtcInfo.cral (i : DtcInfo) : Byte := i.cra.extractLsb' 0 8

/-- CRA with CRAL replaced. -/
def DtcInfo.withCral (i : DtcInfo) (v : Byte) : DtcInfo := { i with cra := i.cra.extractLsb' 8 8 ++ v }

/-- Both addresses step (rule R565). -/
def DtcInfo.stepBoth (i : DtcInfo) : DtcInfo :=
  { i with sar := dtcStep i.sm i.size i.sar, dar := dtcStep i.dm i.size i.dar }

/-- After the datum of normal mode (rule R566): the block, and whether the counter became 0. -/
def afterNormal (i : DtcInfo) : DtcInfo × Bool :=
  let j := { i.stepBoth with cra := i.cra - 1 }
  (j, decide (j.cra = 0))

/-- After the datum of repeat mode (rule R567): the block, and whether the counter was reloaded. -/
def afterRepeat (i : DtcInfo) : DtcInfo × Bool :=
  if i.cral = 1 then
    let j : DtcInfo :=
      if i.dts then { i with sar := dtcUnstep i.sm i.size (i.length - 1) i.sar, dar := dtcStep i.dm i.size i.dar }
      else { i with dar := dtcUnstep i.dm i.size (i.length - 1) i.dar, sar := dtcStep i.sm i.size i.sar }
    (j.withCral (i.cra.extractLsb' 8 8), true)
  else (i.stepBoth.withCral (i.cral - 1), false)

/-- After the last datum of a block (rule R568): the area's address restored, CRAL reloaded, CRB counted. -/
def afterBlock (i : DtcInfo) : DtcInfo × Bool :=
  let j : DtcInfo :=
    if i.dts then { i with sar := dtcUnstep i.sm i.size i.length i.sar }
    else { i with dar := dtcUnstep i.dm i.size i.length i.dar }
  let k := { j.withCral (i.cra.extractLsb' 8 8) with crb := i.crb - 1 }
  (k, decide (k.crb = 0))

/-- Whether the next block of the chain follows (rule R569). -/
def chains (rchne zero : Bool) (i : DtcInfo) : Bool :=
  i.chne && (!i.chns || (if i.mode = 1 then zero && rchne else zero))

/-- Whether the last block requests the CPU interrupt (rule R569). -/
def cpuInterrupt (zero : Bool) (i : DtcInfo) : Bool := i.disel || (decide (i.mode ≠ 1) && zero)

/-- The source of a vector. -/
def sourceOf (vec : Nat) : Option IntSource := intSources.find? (fun r => decide (r.vec = vec))

/-- The module withdraws its own request when the DTC touches its registers (rule R570): SCI, SSU, RCAN-ET and A/D. -/
def clearsByAccess (m : Module) : Bool :=
  match m with
  | .sci0 | .sci1 | .sci2 | .ssu | .rcan0 | .rcan1 | .ad0 | .ad1 => true
  | .mtu2 | .mtu2s | .flash | .dtc | .cmt | .poe | .ports | .system | .bsc | .intc | .ramer | .ubc | .aud => false

/-- The registers whose access by the DTC makes such a module withdraw its request: the fixed side of table 8.2, of the
mailbox only CONTROL1 (rules R561 note 3, R570). -/
def IntSource.clearSide (r : IntSource) : DtcSide :=
  if r.vec = 242 then .source 0xFFFFD910 0xFFFFD911
  else if r.vec = 246 then .source 0xFFFFE110 0xFFFFE111
  else r.side

/-- A DTC access of `n` bytes from an address touches the registers of a side. -/
def DtcSide.touches (d : DtcSide) (write : Bool) (a n : Nat) : Bool :=
  match d with
  | .any => false
  | .source lo hi => !write && decide (a ≤ hi) && decide (lo < a + n)
  | .destination lo hi => write && decide (a ≤ hi) && decide (lo < a + n)

/-- Note an access of a datum that touches the registers of the source (rule R570). -/
def DtcActivity.note (write : Bool) (at_ : Word) (a : DtcActivity) : DtcActivity :=
  match sourceOf a.vec with
  | some r => { a with touched := a.touched || r.clearSide.touches write at_.toNat a.info.size.bytes }
  | none => a

/-- Clear the interrupt flag of the source (rules R486, R570): an edge-sensed IRQ, CMI, or the request line of a module
outside the scope; SCI, SSU, RCAN-ET and A/D withdraw theirs only if the DTC `touched` their register. -/
def clearSource (vec : Nat) (touched : Bool) (s : State) : State :=
  if vec < 68 then
    { s with intc := { s.intc with irqF := withBit s.intc.irqF (vec - 64) false,
                                   irqRead := withBit s.intc.irqRead (vec - 64) false } }
  else if vec = 184 then
    { s with cmt := { s.cmt with ch0 := { s.cmt.ch0 with cmcsr := withBit s.cmt.ch0.cmcsr 7 false, cmfRead := false } } }
  else if vec = 188 then
    { s with cmt := { s.cmt with ch1 := { s.cmt.ch1 with cmcsr := withBit s.cmt.ch1.cmcsr 7 false, cmfRead := false } } }
  else
    match sourceOf vec with
    | some r =>
      if clearsByAccess r.module && !touched then s
      else { s with lines := s.lines.filter (fun l => decide (l ≠ { vec := vec, second := false })) }
    | none => s

/-- Clear the DTCE bit of the source: its request now reaches the CPU (rules R486, R570). -/
def clearDtce (vec : Nat) (s : State) : State :=
  match (sourceOf vec).bind (fun r => r.dtce) with
  | some (id, k) => { s with dtc := s.dtc.setEnableReg id (withBit (s.dtc.enableReg id) k false) }
  | none => s

/-- `end_of_activation` (rule R570). -/
def endOfActivation (vec : Nat) (cpuIrq touched : Bool) (s : State) : State :=
  if cpuIrq then clearDtce vec s else clearSource vec touched s

/-- The pending requests in their order of arrival: those still asserted, then the new ones in the order of table 8.2.
With the DTC's clock stopped or ERR set there is no request (rule R562). That an edge of an IRQ pin latched in software
standby is a request like any other once its DTCE bit is set after the wake-up, where R570 forbids a transfer on it and gives
no consequence, is the model's choice (log entry 24). -/
def refreshQueue (s : State) : State :=
  if bitOf s.power.stbcr2 4 || s.dtc.err then { s with dtc := { s.dtc with queue := [] } }
  else
    let asserted (v : Nat) : Bool :=
      match sourceOf v with
      | some r => s.dtcRequests r
      | none => false
    let old := s.dtc.queue.filter asserted
    let new := ((intSources.filter (fun r => s.dtcRequests r)).map (fun r => r.vec)).filter (fun v => !(old.contains v))
    { s with dtc := { s.dtc with queue := old ++ new } }

/-- The activity, replaced. -/
def State.setActivity (s : State) (a : DtcActivity) : State := { s with dtc := { s.dtc with activity := some a } }

/-- A DTC address error: ERR, the activation abandoned, the CPU's exception pending (rules R444, R576). -/
def dtcAddressError (s : State) : State :=
  { s with dtc := { s.dtc with err := true, errRead := false, activity := none, heldVec := none,
                               addressError := true } }

/-- An activation that an NMI stops: DTC idle, nothing held for read skip (rule R576; log entry 52). -/
def stopActivation (s : State) : State := { s with dtc := { s.dtc with activity := none, heldVec := none } }

/-- An NMI stops an activation that stands at a release point (rule R576; log entry 52). That point B counts as one also when
no access of the CPU to external space waits there is the model's choice (rule R573; log entry 24). -/
def stopAtRelease (s : State) : State :=
  match s.dtc.activity with
  | some a => if a.stopping && decide (a.hold ≠ .held) then stopActivation s else s
  | none => s

/-- An NMI request reaches the DTC: ERR, and an activation in progress stops at its next release point, at once if it
stands at one (rule R576). In a chip without clocks, or with the DTC's clock stopped, nothing changes. -/
def dtcNmi (s : State) : State :=
  if bitOf s.power.stbcr2 4 || !s.proc.clocked then s
  else
    stopAtRelease { s with dtc := { s.dtc with
        err := true
        errRead := if s.dtc.err then s.dtc.errRead else false
        activity := s.dtc.activity.map (fun a => { a with stopping := true }) } }

/-- Where transfer information may be: on-chip RAM or external memory (rule R563). In single-chip mode the read of
external space is the DTC's address error (rules R444, R576). That an address in an erase block overlaid with RAM does not lie
in on-chip RAM is the model's choice (rules R563, R636; log entry 43). -/
def State.infoPlace (s : State) (a : Word) : Bool :=
  match s.regionOf a.toNat with
  | .ram | .cs0 | .cs1 | .singleChipExternal => true
  | .rom | .peripheral | .reserved => false

/-- The address is no register that the DTC must leave alone: of the DTC, BSC, UBC, AUD or flash group (rule R561 note 2).
FMATS and FCCS it may write while the CPU executes from on-chip RAM (rules R126, R631). That RAMER is not of the flash group,
and that the INTC, the CPG, the WDT and the power-down control are not of "the like", is the model's choice (rules R561, R636;
log entry 43). -/
def State.dtcMayTouch (s : State) (write : Bool) (a : Word) : Bool :=
  match s.regionOf a.toNat with
  | .peripheral =>
    match regAt s.part a.toNat with
    | some r =>
      match r.module with
      | .dtc | .bsc | .ubc | .aud => false
      | .flash => write && s.runsInRam && (decide (r.id = .fmats) || decide (r.id = .fccs))
      | .sci0 | .sci1 | .sci2 | .ssu | .rcan0 | .rcan1 | .ad0 | .ad1 | .mtu2 | .mtu2s | .cmt | .poe | .ports | .system
      | .intc | .ramer => true
    | none => true
  | .rom | .ram | .cs0 | .cs1 | .reserved | .singleChipExternal => true

/-- Source and destination keep rule R561 note 2. That one of them must be an on-chip peripheral register binds the first
block of a source whose row says "any" (rules R561, R579; log entry 43). -/
def State.dtcPairOk (s : State) (a : DtcActivity) : Bool :=
  let i := a.info
  let bound := decide (((sourceOf a.vec).map (fun r => r.side)).getD .any = .any) && decide (a.chained = 0)
  s.dtcMayTouch false i.sar && s.dtcMayTouch true i.dar &&
    (!bound || decide (s.regionOf i.sar.toNat = .peripheral) || decide (s.regionOf i.dar.toNat = .peripheral))

/-- BSCEHR.DTLOCK (rule R549). -/
def State.dtlock (s : State) : Bool := bitOf s.bsc.bscehr 15

/-- The bus at a release point that BSCEHR.DTLOCK opens (rule R573). -/
def Hold.releasedIf (open_ : Bool) : Hold := if open_ then .free else .held

/-- Where an activation stands after the transfer-information is in: prohibited settings fault, otherwise the first
datum is next (rules R556, R565, R568). `hold` says what point C releases. -/
def beginTransfer (hold : Hold) (a : DtcActivity) (s : State) : Except Fault State :=
  if a.info.prohibited then .error .dtcProhibitedSetting
  else
    let n := if a.info.mode = 2 then a.info.length else 1
    .ok (s.setActivity { a with phase := .read n, zero := false, hold := hold })

/-- The first write-back that is not skipped (rule R571). -/
def firstBack (i : DtcInfo) : DtcPhase :=
  if bitOf i.sm 1 then .backSar else if bitOf i.dm 1 then .backDar else .backCount

/-- Put longword `k` of the transfer information in its place (rule R563). -/
def DtcInfo.load (i : DtcInfo) (k : Nat) (v : Word) : DtcInfo :=
  if k = 0 then { i with mra := v.extractLsb' 24 8, mrb := v.extractLsb' 16 8 }
  else if k = 1 then { i with sar := v }
  else if k = 2 then { i with dar := v }
  else { i with cra := v.extractLsb' 16 16, crb := v.extractLsb' 0 16 }

/-- The end of a block's write-back (rules R569, R572, R576; log entry 52): the chain goes on, or the activation ends. -/
def finishBlock (a : DtcActivity) (s : State) : Except Fault State :=
  if a.stopping then .ok (stopActivation s)
  else if chains s.dtc.rchne a.zero a.info then
    if Config.dtcChainLimit ≤ a.chained then .error .dtcEndlessChain
    else
      .ok (s.setActivity { a with base := a.base + 16, phase := .info 0, chained := a.chained + 1, hold := .free })
  else
    let t := endOfActivation a.vec (cpuInterrupt a.zero a.info) a.touched s
    .ok { t with dtc := { t.dtc with activity := none
                                     heldVec := if t.dtc.rrs then some a.vec else none
                                     heldInfo := a.info, heldBase := a.base - BitVec.ofNat 32 (16 * a.chained)
                                     lastChained := decide (0 < a.chained) } }

/-- Go on from a DTC access, or handle its address error (rule R576). -/
def dtcAfter {α : Type} (x : Access α) (k : α → State → Except Fault State) : Except Fault State :=
  match x with
  | .ok v s => k v s
  | .addressError s => .ok (dtcAddressError s)
  | .stop f => .error f

/-- The block after a datum was written, and how many data are left; with none left, whether the counter ended
(rules R566 to R568). -/
def afterDatum (left : Nat) (i : DtcInfo) : (DtcInfo × Bool) × Nat :=
  if i.mode = 2 then
    let j := i.stepBoth.withCral (i.cral - 1)
    if 1 < left then ((j, false), left - 1) else (afterBlock j, 0)
  else if i.mode = 1 then (afterRepeat i, 0)
  else (afterNormal i, 0)

/-- The next bus access of an activation (rule R572). `yield` decides the release points that rule R573 leaves open. -/
def dtcAccess (yield : Bool) (a : DtcActivity) (s : State) : Except Fault State :=
  let i := a.info
  let optional := Hold.releasedIf (s.dtlock && yield)
  match a.phase with
  | .vector =>
    dtcAfter (dtcRead s .long (s.dtc.dtcvbr + BitVec.ofNat 32 (0x400 + 4 * a.vec))) (fun v s =>
      .ok (s.setActivity { a with base := v &&& 0xFFFFFFFC, phase := .nop, hold := .releasedIf s.dtlock }))
  | .nop => .ok (s.setActivity { a with phase := .info 0, hold := .externalOnly })
  | .info k =>
    if !(s.infoPlace a.base) then .error .dtcProhibitedSetting
    else
      dtcAfter (dtcRead s .long (a.base + BitVec.ofNat 32 (4 * k))) (fun v s =>
        let b := { a with info := i.load k v, hold := .held }
        if k < 3 then .ok (s.setActivity { b with phase := .info (k + 1) })
        else beginTransfer optional b s)
  | .read left =>
    if !(s.dtcPairOk a) then .error .dtcProhibitedSetting
    else
      dtcAfter (dtcRead s i.size i.sar) (fun v s =>
        .ok (s.setActivity { a.note false i.sar with phase := .write left v, hold := .held }))
  | .write left d =>
    dtcAfter (dtcWrite s i.size i.dar d) (fun _ s =>
      let b := a.note true i.dar
      let r := afterDatum left i
      if r.2 = 0 then
        .ok (s.setActivity { b with info := r.1.1, zero := r.1.2, phase := firstBack r.1.1, hold := optional })
      else .ok (s.setActivity { b with info := r.1.1, phase := .read r.2, hold := .held }))
  | .backSar =>
    dtcAfter (dtcWrite s .long (a.base + 4) i.sar) (fun _ s =>
      .ok (s.setActivity { a with phase := if bitOf i.dm 1 then .backDar else .backCount, hold := .held }))
  | .backDar =>
    dtcAfter (dtcWrite s .long (a.base + 8) i.dar) (fun _ s =>
      .ok (s.setActivity { a with phase := .backCount, hold := .held }))
  | .backCount => dtcAfter (dtcWrite s .long (a.base + 12) (i.cra ++ i.crb)) (fun _ s => finishBlock a s)

/-- Start the activation of a source: with read skip the held information is used (rule R564). -/
def startActivation (vec : Nat) (s : State) : Except Fault State :=
  let d := s.dtc
  let a : DtcActivity :=
    { vec := vec, base := d.heldBase, info := d.heldInfo, phase := .vector, chained := 0, zero := false,
      stopping := false, hold := .free, touched := false }
  if d.rrs && decide (d.heldVec = some vec) && !d.lastChained then beginTransfer .free a s
  else .ok (s.setActivity a)

/-- The next request: the first in table 8.2 if several are pending when an activation ends, else the earliest
(rule R562). -/
def nextRequest (byPriority : Bool) (q : List Nat) : Option Nat :=
  if byPriority then (intSources.map (fun r => r.vec)).find? (fun v => q.contains v) else q.head?

/-- One step of the DTC: an access of the activation in progress, or the start of one. Where an activation has just
ended, the next is chosen at once by priority (rules R560, R562, R572). -/
def dtcAdvance (yield : Bool) (s : State) : Except Fault State :=
  if bitOf s.power.stbcr2 4 || s.bsc.released then .ok s
  else
    match s.dtc.activity with
    | some a =>
      match dtcAccess yield a s with
      | .error f => .error f
      | .ok s =>
        let t := refreshQueue (stopAtRelease s)
        if t.dtc.activity.isNone && !t.dtc.err then
          match nextRequest true t.dtc.queue with
          | some v => startActivation v t
          | none => .ok t
        else .ok t
    | none =>
      if s.dtc.err then .ok s
      else
        match nextRequest false s.dtc.queue with
        | some v => startActivation v s
        | none => .ok s

/-- What the DTC, if it has its clock, leaves of the I bus to the other masters (rule R573). -/
def State.dtcHold (s : State) : Hold :=
  match s.dtc.activity with
  | some a => if bitOf s.power.stbcr2 4 then .free else a.hold
  | none => .free

end Sys2Proof.Machine
end

