-- ==== Sys2Proof/Machine/Agents.lean ====
section
/-! DEFINITION. What acts beside the CPU: the pins with their resets, the peripheral clock, the request lines of the
modules outside the scope, the DTC, the debugger; and what of it falls between two accesses of the CPU
(rules R36, R130, R132, R411 to R415, R430, R544, R573, R620 to R626, R640). -/

namespace Sys2Proof.Machine

/-- RES rises: the mode is latched and the power-on reset sequence follows, or the manual reset state while MRES is low
(rules R36, R410, R413, R666). -/
def releaseReset (s : State) : State :=
  let m := Mode.ofPins s.pins.fwe s.pins.md1 s.pins.md0
  let t := { s with mode := m, flash := .reset m }
  if t.pins.mres then { t with proc := .resetEntry .powerOn } else { manualInit t with proc := .resetHeld .manual }

/-- The RES pin (rules R36, R411, R625, R626, R660): low with HSTBY high begins a power-on reset in every state; high
ends it. -/
def resPin (high : Bool) (s : State) : State :=
  let s := { s with pins := { s.pins with res := high } }
  match s.proc with
  | .resetHeld .powerOn => if high then releaseReset s else s
  | .run | .sleep | .standby _ | .deep | .hardware | .resetEntry _ | .resetHeld _ =>
    if high || !s.pins.hstby then s else powerOnReset s

/-- A manual reset by the MRES pin begins. -/
def manualReset (s : State) : State := { manualInit s with proc := .resetHeld .manual }

/-- The clocks are supplied again after a standby mode: OSCSTOP is 0, and WTCNT, which timed the settling, is 0 with a new
period of its prescaler. That both are so where a manual reset ends the mode too, which holds the WDT, is the model's choice
(rules R413, R597, R623, R663; log entry 33). -/
def clocksBack (s : State) : State :=
  { s with cpg := { s.cpg with oscstop := false }, wdt := { s.wdt with wtcnt := 0, prescaler := 0 } }

/-- MRES low in software or deep software standby. Rules R36, R413, R415 and R665 take software standby to the manual reset,
R36 and R415 deep software standby too; R623 says that MRES does not end the former, R625 and R665 that it does not end the
latter. The spec does not say which holds, and the model's choice is to leave both open, by a free choice (log entry 45). -/
def mresInStandby (s : State) : State :=
  let d := s.drawBit
  if d.1 then manualReset (clocksBack d.2) else d.2

/-- The MRES pin: low with RES high begins a manual reset, in the two standby modes by a free choice (`mresInStandby`), and
where that leaves software standby on, when its clocks are back. In the power-on reset state it counts when RES rises, and in
hardware standby it does nothing (rules R36, R413; log entry 45). -/
def mresPin (high : Bool) (s : State) : State :=
  let s := { s with pins := { s.pins with mres := high } }
  match s.proc with
  | .run | .sleep | .resetEntry _ => if high || !s.pins.res then s else manualReset s
  | .standby _ | .deep => if high || !s.pins.res then s else mresInStandby s
  | .resetHeld .manual => if high then { s with proc := .resetEntry .manual } else s
  | .resetHeld _ | .hardware => s

/-- The HSTBY pin: low is hardware standby from any state; with RES low, high leads to the power-on reset state, and the
registers of the CPU take their reset values (rules R36, R626, R660, R661). That low counts with RES high too, where R626
speaks of RES low, follows R36's "any state" (log entry 45). -/
def hstbyPin (high : Bool) (s : State) : State :=
  let s := { s with pins := { s.pins with hstby := high } }
  match s.proc with
  | .hardware => if high && !s.pins.res then powerOnReset s else s
  | .run | .sleep | .standby _ | .deep | .resetEntry _ | .resetHeld _ =>
    if high then s else { powerCut (cutExternalWrite s) with proc := .hardware }

/-- The interrupt inputs are watched in this processing state (rule R438). That an edge of NMI or of an IRQ pin is lost while
a manual reset is held is the model's choice (rules R456, R576, R663; log entry 60). -/
def Proc.listens : Proc → Bool
  | .run | .sleep | .standby _ | .resetEntry _ => true
  | .resetHeld _ | .deep | .hardware => false

/-- A wake-up edge in software standby starts the settling count (rules R597, R623). -/
def wakeUp (s : State) : State :=
  match s.proc with
  | .standby _ => { s with proc := .standby true }
  | .run | .sleep | .resetHeld _ | .resetEntry _ | .deep | .hardware => s

/-- The NMI pin: the selected edge is latched, reaches the DTC, and ends software standby (rules R477, R576, R623). While a
manual reset is held it does none of these: ERR stays and the DTC runs on, the model's choice (rules R456, R663; log entry
60). -/
def nmiPin (high : Bool) (s : State) : State :=
  let hit := nmiEdge s.intc.nmie s.pins.nmi high && s.proc.listens
  let s := { s with pins := { s.pins with nmi := high } }
  if hit then wakeUp (dtcNmi { s with intc := { s.intc with nmiPending := true } }) else s

/-- An IRQ pin: the selected edge is latched; in software standby it wakes the chip if its level is above the mask
(rules R479, R623). -/
def irqEvent (n : Nat) (high : Bool) (s : State) : State :=
  let hit := edgeOf (s.intc.sense n) (bitOf s.pins.irq n) high
  let level := (s.intc.ipra.extractLsb' (4 * (3 - n)) 4).toNat
  if s.proc.listens then
    let t := irqPin n high s
    if hit && decide (s.mask < level) then wakeUp t else t
  else { s with pins := { s.pins with irq := withBit s.pins.irq n high } }

/-- A pin takes a level. The mode pins act at the next power-on reset (rule R118); that they do so too when MD1 or MD0 changed
in hardware standby, which R626 and R666 forbid, is the model's choice (log entry 45). That AUDMD switches the RAM monitor at
once while AUDRST is high too, where the rule forbids the change, is the model's choice (rule R640; log entry 57). -/
def pinEvent (p : Pin) (high : Bool) (s : State) : State :=
  match p with
  | .res => resPin high s
  | .mres => mresPin high s
  | .hstby => hstbyPin high s
  | .nmi => nmiPin high s
  | .irq n => irqEvent n.val high s
  | .breq => { s with pins := { s.pins with breq := high } }
  | .fwe => { s with pins := { s.pins with fwe := high } }
  | .md1 => { s with pins := { s.pins with md1 := high } }
  | .md0 => { s with pins := { s.pins with md0 := high } }
  | .audrst =>
    let t := { s with pins := { s.pins with audrst := high } }
    if high then t else audInit t
  | .audmd => { s with pins := { s.pins with audmd := high } }

/-- A module outside the scope may drive the line: it is on the part, is none of the modelled sources, has its clock,
and the line exists (rules R5, R481). -/
def lineAllowed (l : Line) (s : State) : Bool :=
  match sourceOf l.vec with
  | none => false
  | some r =>
    s.sourceLive r && decide (r.module ≠ .intc) && decide (r.module ≠ .cmt) && decide (r.module ≠ .system) &&
      (!l.second || decide (l.vec = 242) || decide (l.vec = 246))

/-- A request line is asserted or withdrawn (rules R5, R481). -/
def lineEvent (l : Line) (on : Bool) (s : State) : State :=
  let rest := s.lines.filter (fun x => decide (x ≠ l))
  if on then (if lineAllowed l s then { s with lines := l :: rest } else s) else { s with lines := rest }

/-- A watchdog overflow resets the chip as RSTS says; while MRES is held low the manual reset goes on and only WOVF is
set (rules R410, R595; log entry 53). -/
def watchdogReset (s : State) : State :=
  if !s.pins.mres then s
  else if bitOf s.wdt.wtcsr 5 then { manualInit s with proc := .resetEntry .wdtManual }
  else wdtPowerOnReset s

/-- One Ptick of a running chip: WDT and CMT count; a watchdog overflow resets (rules R594 to R596, R608; with MRES low, log
entry 53). -/
def runPtick (meets : Bool) (s : State) : State :=
  let s := cmtPtick meets s
  if s.wdt.tme then
    let t := wdtTick s.wdt
    if t.2 then
      let s := { s with wdt := wdtOverflow t.1 }
      if s.wdt.watchdog then watchdogReset s else s
    else { s with wdt := t.1 }
  else s

/-- The clocks are back after software standby: the CPU goes on, unless MRES is held low (rules R36, R597, R623; log
entry 45). -/
def resume (s : State) : State :=
  let t := clocksBack s
  if t.pins.mres then { t with proc := .run } else manualReset t

/-- One Ptick of the settling count: at its overflow the clocks are supplied again; WOVF is not set
(rules R597, R623). -/
def settlingPtick (s : State) : State :=
  let t := (wdtTick s.wdt).1
  if decide (s.wdt.wtcnt = 0xFF) && decide (t.wtcnt = 0) then resume { s with wdt := t } else { s with wdt := t }

/-- One period of the peripheral clock. -/
def ptickEvent (meets : Bool) (s : State) : State :=
  match s.proc with
  | .run | .sleep | .resetEntry _ | .resetHeld .manual | .resetHeld .wdtManual => runPtick meets s
  | .standby true => settlingPtick s
  | .standby false | .deep | .hardware | .resetHeld .powerOn | .resetHeld .wdtPowerOn => s

/-- The input clock stops while the chip runs on it (rule R542). -/
def clockStopEvent (s : State) : State :=
  if s.proc.clocked then { s with cpg := { s.cpg with oscstop := true } } else s

/-- The debugger's RAM monitor is in use (rules R622, R640). -/
def State.ramMonitor (s : State) : Bool :=
  s.part.aud && s.pins.audmd && s.pins.audrst && bitOf s.power.stbcr6 7 && !(bitOf s.power.stbcr5 1)

/-- The debugger may access the bus (rules R573, R640). That it may while a manual reset is held, through which the bus and
the modules run on, is the model's choice (log entry 32). -/
def State.audMayAccess (s : State) : Bool :=
  s.ramMonitor && s.proc.clocked && !s.bsc.released && decide (s.dtcHold = .free)

/-- The state after an access of the debugger: a bus error raises no exception (rule R640). -/
def audAfter {α : Type} (x : Access α) : Except Fault State :=
  match x with
  | .ok _ s => .ok s
  | .addressError s => .ok s
  | .stop f => .error f

/-- A read by the debugger. That a read of a UBC register ends no window of an earlier write there, as a read of the CPU does,
is the model's choice (rules R509, R640, R686; log entry 26). -/
def audRead (z : Size) (a : Word) (s : State) : Except Fault State :=
  if s.audMayAccess then audAfter (busRead .aud false s z a) else .ok s

/-- A write by the debugger; what it stores over may still be prefetched (rule R136; log entry 17). -/
def audWrite (z : Size) (a v : Word) (s : State) : Except Fault State :=
  if s.audMayAccess then audAfter ((busWrite s z a v).bind (fun _ t => .ok () (openStale s z a t))) else .ok s

/-- An access of the external bus master, while it has the bus: a write changes the byte of the device, a read nothing, and it
reaches nothing inside the chip. What it stores over may still be prefetched (rules R130, R136, R545, R551; log entry 62). -/
def masterAccess (cs1 : Bool) (a : BitVec 20) (v : Option Byte) (s : State) : State :=
  match v with
  | none => s
  | some b =>
    if s.bsc.released then
      let c := extCell cs1 a.toNat
      noteCell s .byte c (s.store .byte c (b.setWidth 32))
    else s

/-- The DTC's step, while the chip has its clocks. -/
def dtcEvent (yield : Bool) (s : State) : Except Fault State :=
  if s.proc.clocked then dtcAdvance yield s else .ok s

/-- What an event does to the state; `cpu` is not one of these. An access of the DTC or the debugger is the one that a count
clock just before it coincides with; any other event ends the coincidence (rule R609; log entry 34). -/
def agentAct (e : Event) (s : State) : Except Fault State :=
  match e with
  | .cpu => .ok s
  | .dtc yield => (dtcEvent yield s).map clearRaces
  | .ptick meets => .ok (ptickEvent meets (clearRaces s))
  | .pin p high => .ok (pinEvent p high (clearRaces s))
  | .line l on => .ok (lineEvent l on (clearRaces s))
  | .clockStop => .ok (clockStopEvent (clearRaces s))
  | .audRead a z => (audRead z a s).map clearRaces
  | .audWrite a z v => (audWrite z a v s).map clearRaces
  | .external cs1 a v => .ok (masterAccess cs1 a v (clearRaces s))

/-- An event, and the DTC's queue of requests after it (rule R562). -/
def agentEvent (e : Event) (s : State) : Except Fault State := (agentAct e s).map refreshQueue

/-- What becomes of the CPU's step at a point between its accesses. -/
inductive Flow where
  /-- It goes on. -/
  | go (s : State)
  /-- A reset ended it (rules R411, R413, R415). -/
  | abandoned (s : State)
  /-- An access of another agent faulted. -/
  | stop (f : Fault)

/-- The bus goes to an external master while BREQ is low, in every mode, and where the DTC leaves it to every master; the bus
cycle in progress, a buffered write too, ends first (rules R36, R551, R552, R573). In a reset state it is not released. That a
manual reset takes a released bus back at once, and that BREQ is accepted in sleep mode, in software standby and before the
vectors of a reset are read as in program execution, is the model's choice; and so is that a request which BREQ withdraws
before the bus was handed over, which R551 forbids, is forgotten: the level of the pin alone counts here (log entry 40). -/
def settleBus (s : State) : State :=
  let accepts := match s.proc with
    | .resetHeld _ | .deep | .hardware => false
    | .run | .sleep | .standby _ | .resetEntry _ => true
  let released := !s.pins.breq && accepts && decide (s.dtcHold = .free)
  { s with bsc := { s.bsc with released := released, extWrite := if released then none else s.bsc.extWrite } }

/-- The CPU has the bus again. -/
def regainBus (s : State) : State :=
  if s.bsc.released then { s with pins := { s.pins with breq := true }, bsc := { s.bsc with released := false } } else s

/-- Take the events that come before the next access of the CPU, which does not come while an external master has the bus
(rules R36, R551). -/
def takeInner : List Event → State → Flow
  | [], s => .go { s with inner := [] }
  | e :: rest, s =>
    let s := settleBus s
    if e = .cpu then (if s.bsc.released then takeInner rest s else .go { s with inner := rest })
    else
      match agentEvent e s with
      | .error f => .stop f
      | .ok t => if t.proc = s.proc then takeInner rest t else .abandoned { t with inner := rest }

/-- The DTC keeps an access of the CPU off the bus: between release points every I-bus access, at point B one to a
peripheral register (rule R573). -/
def State.dtcBlocks (s : State) (a : Word) : Bool :=
  match s.dtcHold with
  | .free => false
  | .externalOnly => decide (s.regionOf a.toNat = .peripheral)
  | .held => s.onIBus a

/-- The CPU waits while the DTC goes on to where it lets the access pass. A block has at most 256 data, so that the DTC
releases the bus after fewer accesses than the bound (rules R568, R573). -/
def awaitBus : Nat → Word → State → Except Fault State
  | 0, _, s => .ok s
  | n + 1, a, s =>
    if s.dtcBlocks a then
      let d := s.drawBit
      match dtcAdvance d.1 d.2 with
      | .error f => .error f
      | .ok t => awaitBus n a (clearRaces t)
    else .ok s

/-- What lies between two accesses of the CPU: the other agents' accesses and the events that fall there, and the wait
for the bus (rules R113, R132, R430, R551, R573, R684; log entry 36). An external master keeps the bus for a finite time, so
that one which the listed events leave with the bus withdraws BREQ after them; with no event listed nothing falls into its time
and the bus goes over after the step: the model's choices (rule R551; log entry 40). -/
def between (a : Word) (s : State) : Flow :=
  match takeInner s.inner (clearRaces s) with
  | .go t =>
    match awaitBus 1024 a (if s.inner.isEmpty then t else regainBus t) with
    | .ok u => .go u
    | .error f => .stop f
  | .abandoned t => .abandoned t
  | .stop f => .stop f

/-- Nothing comes between the CPU's accesses: no event is listed, no count clock coincides with an access, and the
DTC keeps nobody off the bus. -/
def State.alone (s : State) : Bool :=
  s.inner.isEmpty && s.cmt.ch0.race.isNone && s.cmt.ch1.race.isNone && decide (s.dtcHold = .free)

end Sys2Proof.Machine
end

