-- ==== Sys2Proof/Machine/Ops.lean ====
section
/-! DEFINITION. The shared operations of the meanings: ending an instruction, taking an exception and returning from one
(60_exceptions.md), loads and stores with their address errors, and branches. -/

namespace Sys2Proof.Machine

/-- The outcome of an instruction or a step. -/
abbrev Result := Host.Outcome State Fault Refusal

/-- The pc after an instruction: the next instruction, or in a delay slot the branch target, which the PC trace
records as a branch (rules R30, R340, R523). -/
def advance (s : State) : State :=
  match s.slot with
  | none => { s with pc := s.pc + 2 }
  | some d => clearStale (pcTrace d.branch d.target { s with pc := d.target, slot := none })

/-- End an instruction that leaves interrupts acceptable (rule R436). -/
def finish (s : State) : Result := .next { advance s with irqBlock := false }

/-- End one of the 24 interrupt-disabling instructions (rules R360 (d), R436). -/
def finishBlocking (s : State) : Result := .next { advance s with irqBlock := true }

/-- Change the next state of a result. -/
def mapNext (f : State → State) (r : Result) : Result :=
  match r with
  | .next s => .next (f s)
  | .fault e => .fault e
  | .refused e => .refused e

/-- A point before an access of the CPU to an address: the other agents come in, and a reset abandons the instruction or
the entry here (rules R113, R132, R413, R415, R430). -/
def beforeAccess (a : Word) (s : State) (k : State → Result) : Result :=
  match between a s with
  | .go t => k t
  | .abandoned t => .next t
  | .stop f => .fault f

/-- The write of `pushEntry`; whether it was an address error goes on. That the UBC compares the value to be saved in a cycle
that fails for external space in a single-chip mode is the model's choice (rules R427, R446; log entry 25). -/
def pushWrite (a v : Word) (open_ : Bool) (s : State) (k : Bool → State → Result) : Result :=
  beforeAccess a s (fun s =>
    match cpuWrite s .long a v with
    | .ok _ s => k open_ s
    | .addressError s => k true s
    | .stop f => .fault f)

/-- One stack write of an exception entry. A misaligned stack pointer puts out the rounded address with open data; so
what goes on says whether the write was an address error (rules R427, R446). -/
def pushEntry (v : Word) (s : State) (k : Bool → State → Result) : Result :=
  let a := s.reg 15 - 4
  let s := s.setReg 15 a
  if misaligned .long a then let d := s.drawWord; pushWrite (a &&& 0xFFFFFFFC) d.1 true d.2 k
  else pushWrite a v false s k

/-- SR.I after an entry: the level of an interrupt, unchanged for the other exceptions (rule R425). -/
def raiseMask (newI : Option Nat) (s : State) : State :=
  match newI with
  | none => s
  | some l => { s with sr := withMask s.sr l }

/-- The last part of an entry: the vector read and the jump, which is not delayed (rules R420, R426, R447, R523). -/
def jumpVector (vec : Nat) (savedPc : Word) (s : State) (k : State → Result) : Result :=
  let a := s.vbr + BitVec.ofNat 32 (4 * vec)
  if misaligned .long s.vbr then .fault .vbrMisaligned
  else
    beforeAccess a s (fun s =>
      match cpuRead s .long a with
      | .ok v s => k (clearStale (pcTrace savedPc v { s with pc := v, slot := none, irqBlock := false }))
      | .addressError _ => .fault .vectorAddressError
      | .stop f => .fault f)

/-- `enter(vec, saved_pc, new_I)` of rule R420, once; what goes on says whether a stack write was an address error. -/
def enterOnce (vec : Nat) (savedPc : Word) (newI : Option Nat) (s : State) (k : Bool → State → Result) : Result :=
  pushEntry s.sr s (fun bad1 s =>
    pushEntry savedPc s (fun bad2 s =>
      jumpVector vec savedPc (raiseMask newI s) (k (bad1 || bad2))))

/-- The entry for a CPU address error: no further one follows it (rules R445, R446). -/
def enterAddressError (savedPc : Word) (s : State) : Result := enterOnce 9 savedPc none s (fun _ t => .next t)

/-- TAKING AN EXCEPTION that is no CPU address error (rules R420 to R427): SR and PC to the stack, the new mask, the
handler's address. After an entry whose stack writes were address errors the address-error entry follows
(rules R445, R446). -/
def enter (vec : Nat) (savedPc : Word) (newI : Option Nat) (s : State) : Result :=
  enterOnce vec savedPc newI s (fun bad t => if bad then enterAddressError t.pc t else .next t)

/-- An exception of the instruction at pc other than TRAPA: the saved PC is the instruction, or the delayed branch whose
slot it is in, which is undone; in the slot of RTE nothing is guaranteed (rules R352, R383, R424). The break requests
of the instruction are dropped (rule R522). With `keepFlags` the flag and the count of an undone branch's own break after
execution stay too: the model's choice (rule R434; log entry 55). -/
def raiseWith (keepFlags : Bool) (s : State) (entry : Word → State → Result) : Result :=
  let s := ubcCancel keepFlags s
  match s.slot with
  | none => entry s.pc s
  | some d => if d.rte then .fault .exceptionInRteSlot else entry d.branch { s with pr := d.prBefore }

/-- An exception of the instruction that takes back its match flags too: an illegal instruction. -/
def raiseException (vec : Nat) (s : State) : Result := raiseWith false s (fun pc s => enter vec pc none s)

/-- CPU address error of a data access, vector 9: the match flags stay (rules R440, R442, R443, R522 (c)). -/
def addressErrorException (s : State) : Result := raiseWith true s enterAddressError

/-- CPU address error of a fetch, vector 9 (rules R441, R522 (b)). -/
def fetchAddressError (s : State) : Result := raiseWith false s enterAddressError

/-- General illegal instruction, vector 4, or slot illegal instruction, vector 6 (rules R450, R451). -/
def illegalException (s : State) : Result := raiseException (if s.slot.isSome then 6 else 4) s

/-- A PC-rewriting instruction in a delay slot is slot illegal and is not executed (rule R163). -/
def notInSlot (s : State) (k : State → Result) : Result :=
  match s.slot with
  | none => k s
  | some _ => raiseException 6 s

/-- A PC-relative data transfer has no meaning in a delay slot (rule R157, conflict C36). -/
def pcRelative (s : State) (k : State → Result) : Result :=
  match s.slot with
  | none => k s
  | some _ => .fault .pcRelativeInDelaySlot

/-- TRAPA's entry: the saved PC is the next instruction, and SR is unchanged. No user break comes of the instruction, its
entry included (rules R391, R424, R434, R522 (b)). That with a misaligned R15 none comes of the stack and vector cycles of the
address error entry that follows either is the model's choice (rules R446, R514; log entry 25). -/
def trap (vec : Nat) (s : State) : Result :=
  mapNext (ubcCancel true) (enter vec (s.pc + 2) none (ubcCancel true s))

/-- What a misaligned read leaves in its destination: an open value (rules R106, R442; log entry 9). -/
def spoilDestination (z : Size) (a : Word) (spoil : Word → State → State) (s : State) : State :=
  if misaligned z a then let d := s.drawWord; spoil d.1 d.2 else s

/-- A read of an instruction. On an address error the destination that `spoil` writes is open if the address was
misaligned, and nothing else is written (rules R106, R108, R360 (c), R442). -/
def loadOr (z : Size) (a : Word) (spoil : Word → State → State) (s : State) (k : Word → State → Result) : Result :=
  beforeAccess a s (fun s =>
    match cpuRead s z a with
    | .ok v s => k v s
    | .addressError s => addressErrorException (spoilDestination z a spoil s)
    | .stop f => .fault f)

/-- A read whose destination an address error leaves as it was (decision D7: MACH, MACL, PR and T), or that has none. -/
def load (z : Size) (a : Word) (s : State) (k : Word → State → Result) : Result := loadOr z a (fun _ s => s) s k

/-- A MOV load into Rn: the address register is updated by `update` after the access, and the destination, written last, is
sign-extended (rules R103, R158, R216). With Rn the address register too, a misaligned address leaves it open as the
destination, where decision D7 would keep it as the address register: the model's choice (rules R106, R108, R215; log entries
9, 10). -/
def loadTo (z : Size) (a : Word) (n : Reg) (update : State → State) (s : State) : Result :=
  loadOr z a (fun v s => s.setReg n v) s (fun v s => finish ((update s).setReg n (extendLoad z v)))

/-- What a misaligned store leaves behind: open contents in the aligned container it falls into (rule R106). -/
def spoilContainer (z : Size) (a : Word) (s : State) : State :=
  if misaligned z a then spoilBytes z.bytes (container z a).toNat s else s

/-- The write of a store, with no point before it; on an address error the instruction's other effects do not happen
(rules R106, R108, R442). -/
def storeNow (z : Size) (a v : Word) (s : State) (k : State → Result) : Result :=
  match cpuWrite s z a v with
  | .ok _ s => k s
  | .addressError s => addressErrorException (spoilContainer z a s)
  | .stop f => .fault f

/-- A store of an instruction. -/
def store (z : Size) (a v : Word) (s : State) (k : State → Result) : Result :=
  beforeAccess a s (fun s => storeNow z a v s k)

/-- A taken branch that is not delayed (rules R341, R343, R523). -/
def branchTo (target : Word) (s : State) : Result :=
  .next (clearStale (pcTrace s.pc target { s with pc := target, irqBlock := false }))

/-- `delayed(target)`: the slot instruction is next; `prBefore` is PR before the branch (rules R340, R352). -/
def delayedBranch (target prBefore : Word) (rte : Bool) (s : State) : Result :=
  .next { s with
    slot := some { branch := s.pc, target := target, prBefore := prBefore, rte := rte }
    pc := s.pc + 2
    irqBlock := false }

/-- RETURNING FROM AN EXCEPTION (rules R383, R423): PC and SR from the stack, SR restored before the slot executes. -/
def returnFromException (s : State) : Result :=
  load .long (s.reg 15) s (fun newPc s =>
    load .long (s.reg 15 + 4) s (fun newSr s =>
      delayedBranch newPc s.pr true ((s.setReg 15 (s.reg 15 + 8)).writeSr newSr)))

end Sys2Proof.Machine
end

