-- ==== Sys2Proof/Machine/Flags.lean ====
section
/-! DEFINITION. The flag computations: carry, borrow, overflow, comparison, and the one-bit division step
(41_arithmetic.md), each from the exact result of its operation. -/

namespace Sys2Proof.Machine

/-- A flag as a number. -/
def bit (b : Bool) : Nat := if b then 1 else 0

/-- Carry of `a + b + c` out of bit 31 (rules R253, R264). -/
def carryOut (a b : Word) (c : Bool) : Bool := decide (2 ^ 32 ≤ a.toNat + b.toNat + bit c)

/-- Borrow of `a - b - c` (rules R280, R282). -/
def borrowOut (a b : Word) (c : Bool) : Bool := decide (a.toNat < b.toNat + bit c)

/-- `a + b` leaves the signed range (rule R254). -/
def overflowAdd (a b : Word) : Bool := decide ((a + b).toInt ≠ a.toInt + b.toInt)

/-- `a - b` leaves the signed range (rule R283). -/
def overflowSub (a b : Word) : Bool := decide ((a - b).toInt ≠ a.toInt - b.toInt)

/-- A byte of `a` equals the same byte of `b` (rule R263). -/
def anyByteEqual (a b : Word) : Bool :=
  decide (a.extractLsb' 24 8 = b.extractLsb' 24 8) || decide (a.extractLsb' 16 8 = b.extractLsb' 16 8) ||
    decide (a.extractLsb' 8 8 = b.extractLsb' 8 8) || decide (a.extractLsb' 0 8 = b.extractLsb' 0 8)

/-- A flag as a word. -/
def bitWord (b : Bool) : Word := BitVec.ofNat 32 (bit b)

/-- A result that sets T and a register (rule R250). -/
def State.setRegT (s : State) (n : Reg) (v : Word) (t : Bool) : State := (s.setReg n v).setT t

end Sys2Proof.Machine
end

