-- ==== Sys2Proof/Machine/Arithmetic.lean ====
section
/-! DEFINITION. The meanings of the arithmetic instructions (41_arithmetic.md). One definition per instruction over the shared operations. -/

namespace Sys2Proof.Machine

/-- `MAC.L`: 64-bit accumulation, saturated to 48 bits when S = 1 (rule R274; the saturation is PRESUMED, log
entry 19). -/
def accumulateLong (s : State) (p : Int) : State :=
  let r := s.mac.toInt + p
  s.setMac (BitVec.ofInt 64 (if s.flagS then min (max r (-(2 ^ 47))) (2 ^ 47 - 1) else r))

/-- `MAC.W`: 64-bit accumulation when S = 0; when S = 1 a 32-bit one in MACL that saturates and then sets bit 0 of MACH
(rule R275; the S = 1 part is PRESUMED, log entry 19). -/
def accumulateWord (s : State) (p : Int) : State :=
  if s.flagS then
    let r := s.macl.toInt + p
    if 2 ^ 31 - 1 < r then { s with macl := 0x7FFFFFFF, mach := s.mach ||| 1 }
    else if r < -(2 ^ 31) then { s with macl := 0x80000000, mach := s.mach ||| 1 }
    else { s with macl := BitVec.ofInt 32 r }
  else s.setMac (BitVec.ofInt 64 (s.mac.toInt + p))

/-- The accesses of MAC.L and MAC.W: the Rn operand first, each register advanced after its access; nothing is written
when an access fails (rules R108, R274, R275; the read order is PRESUMED, log entry 19). MACH and MACL keep their values
then (conflict C42). -/
def multiplyAccumulate (z : Size) (step : Word) (m n : Reg) (s : State) (k : Word → Word → State → State) : Result :=
  load z (s.reg n) s (fun a t =>
    load z (if m = n then s.reg m + step else s.reg m) t (fun b t =>
      let u := t.setReg n (s.reg n + step)
      finish (k a b (u.setReg m (u.reg m + step)))))

/-- `ADD Rm,Rn` (rule R251). -/
def execAdd (m : Reg) (n : Reg) (s : State) : Result :=
  finish (s.setReg n (s.reg n + s.reg m))

/-- `ADD #imm,Rn` (rule R252). -/
def execAddImm (imm : BitVec 8) (n : Reg) (s : State) : Result :=
  finish (s.setReg n (s.reg n + sext8 imm))

/-- `ADDC Rm,Rn` (rule R253). -/
def execAddc (m : Reg) (n : Reg) (s : State) : Result :=
  finish (s.setRegT n (s.reg n + s.reg m + bitWord s.flagT) (carryOut (s.reg n) (s.reg m) s.flagT))

/-- `ADDV Rm,Rn` (rule R254). -/
def execAddv (m : Reg) (n : Reg) (s : State) : Result :=
  finish (s.setRegT n (s.reg n + s.reg m) (overflowAdd (s.reg n) (s.reg m)))

/-- `CMP/EQ #imm,R0` (rule R255). -/
def execCmpEqImm (imm : BitVec 8) (s : State) : Result :=
  finish (s.setT (decide (s.reg 0 = sext8 imm)))

/-- `CMP/EQ Rm,Rn` (rule R256). -/
def execCmpEq (m : Reg) (n : Reg) (s : State) : Result :=
  finish (s.setT (decide (s.reg n = s.reg m)))

/-- `CMP/HS Rm,Rn` (rule R257). -/
def execCmpHs (m : Reg) (n : Reg) (s : State) : Result :=
  finish (s.setT (decide ((s.reg m).toNat ≤ (s.reg n).toNat)))

/-- `CMP/GE Rm,Rn` (rule R258). -/
def execCmpGe (m : Reg) (n : Reg) (s : State) : Result :=
  finish (s.setT (decide ((s.reg m).toInt ≤ (s.reg n).toInt)))

/-- `CMP/HI Rm,Rn` (rule R259). -/
def execCmpHi (m : Reg) (n : Reg) (s : State) : Result :=
  finish (s.setT (decide ((s.reg m).toNat < (s.reg n).toNat)))

/-- `CMP/GT Rm,Rn` (rule R260). -/
def execCmpGt (m : Reg) (n : Reg) (s : State) : Result :=
  finish (s.setT (decide ((s.reg m).toInt < (s.reg n).toInt)))

/-- `CMP/PL Rn` (rule R261). -/
def execCmpPl (n : Reg) (s : State) : Result :=
  finish (s.setT (decide (0 < (s.reg n).toInt)))

/-- `CMP/PZ Rn` (rule R262). -/
def execCmpPz (n : Reg) (s : State) : Result :=
  finish (s.setT (decide (0 ≤ (s.reg n).toInt)))

/-- `CMP/STR Rm,Rn` (rule R263). -/
def execCmpStr (m : Reg) (n : Reg) (s : State) : Result :=
  finish (s.setT (anyByteEqual (s.reg n) (s.reg m)))

/-- `DIV1 Rm,Rn` (rule R264). -/
def execDiv1 (m : Reg) (n : Reg) (s : State) : Result :=
  let v := (s.reg n <<< 1) ||| bitWord s.flagT
  let sub := s.flagQ == s.flagM
  let r := if sub then v - s.reg m else v + s.reg m
  let c := if sub then borrowOut v (s.reg m) false else carryOut v (s.reg m) false
  let q := bitOf (s.reg n) 31 != (c != s.flagM)
  finish (((s.setReg n r).setQ q).setT (q == s.flagM))

/-- `DIV0S Rm,Rn` (rule R265). -/
def execDiv0s (m : Reg) (n : Reg) (s : State) : Result :=
  let q := bitOf (s.reg n) 31
  let m' := bitOf (s.reg m) 31
  finish (((s.setQ q).setM m').setT (m' != q))

/-- `DIV0U` (rule R266). -/
def execDiv0u (s : State) : Result :=
  finish (((s.setM false).setQ false).setT false)

/-- `DMULS.L Rm,Rn` (rule R267). -/
def execDmulsL (m : Reg) (n : Reg) (s : State) : Result :=
  finish (s.setMac (BitVec.ofInt 64 ((s.reg n).toInt * (s.reg m).toInt)))

/-- `DMULU.L Rm,Rn` (rule R268). -/
def execDmuluL (m : Reg) (n : Reg) (s : State) : Result :=
  finish (s.setMac (BitVec.ofNat 64 ((s.reg n).toNat * (s.reg m).toNat)))

/-- `DT Rn` (rule R269). -/
def execDt (n : Reg) (s : State) : Result :=
  finish (s.setRegT n (s.reg n - 1) (decide (s.reg n - 1 = 0)))

/-- `EXTS.B Rm,Rn` (rule R270). -/
def execExtsB (m : Reg) (n : Reg) (s : State) : Result :=
  finish (s.setReg n (extendLoad .byte (s.reg m)))

/-- `EXTS.W Rm,Rn` (rule R271). -/
def execExtsW (m : Reg) (n : Reg) (s : State) : Result :=
  finish (s.setReg n (extendLoad .word (s.reg m)))

/-- `EXTU.B Rm,Rn` (rule R272). -/
def execExtuB (m : Reg) (n : Reg) (s : State) : Result :=
  finish (s.setReg n (s.reg m &&& 0x000000FF))

/-- `EXTU.W Rm,Rn` (rule R273). -/
def execExtuW (m : Reg) (n : Reg) (s : State) : Result :=
  finish (s.setReg n (s.reg m &&& 0x0000FFFF))

/-- `MAC.L @Rm+,@Rn+` (rule R274). -/
def execMacL (m : Reg) (n : Reg) (s : State) : Result :=
  multiplyAccumulate .long 4 m n s (fun a b s => accumulateLong s (a.toInt * b.toInt))

/-- `MAC.W @Rm+,@Rn+` (rule R275). -/
def execMacW (m : Reg) (n : Reg) (s : State) : Result :=
  multiplyAccumulate .word 2 m n s (fun a b s => accumulateWord s (signedHalf a * signedHalf b))

/-- `MUL.L Rm,Rn` (rule R276). -/
def execMulL (m : Reg) (n : Reg) (s : State) : Result :=
  finish { s with macl := s.reg n * s.reg m }

/-- `MULS.W Rm,Rn` (rule R277). -/
def execMulsW (m : Reg) (n : Reg) (s : State) : Result :=
  finish { s with macl := BitVec.ofInt 32 (signedHalf (s.reg n) * signedHalf (s.reg m)) }

/-- `MULU.W Rm,Rn` (rule R278). -/
def execMuluW (m : Reg) (n : Reg) (s : State) : Result :=
  finish { s with macl := BitVec.ofNat 32 (unsignedHalf (s.reg n) * unsignedHalf (s.reg m)) }

/-- `NEG Rm,Rn` (rule R279). -/
def execNeg (m : Reg) (n : Reg) (s : State) : Result :=
  finish (s.setReg n (0 - s.reg m))

/-- `NEGC Rm,Rn` (rule R280). -/
def execNegc (m : Reg) (n : Reg) (s : State) : Result :=
  finish (s.setRegT n (0 - s.reg m - bitWord s.flagT) (borrowOut 0 (s.reg m) s.flagT))

/-- `SUB Rm,Rn` (rule R281). -/
def execSub (m : Reg) (n : Reg) (s : State) : Result :=
  finish (s.setReg n (s.reg n - s.reg m))

/-- `SUBC Rm,Rn` (rule R282). -/
def execSubc (m : Reg) (n : Reg) (s : State) : Result :=
  finish (s.setRegT n (s.reg n - s.reg m - bitWord s.flagT) (borrowOut (s.reg n) (s.reg m) s.flagT))

/-- `SUBV Rm,Rn` (rule R283). -/
def execSubv (m : Reg) (n : Reg) (s : State) : Result :=
  finish (s.setRegT n (s.reg n - s.reg m) (overflowSub (s.reg n) (s.reg m)))

end Sys2Proof.Machine
end

