-- ==== Sys2Proof/Machine/Branch.lean ====
section
/-! DEFINITION. The meanings of the branch instructions (44_branch.md). One definition per instruction over the shared operations. -/

namespace Sys2Proof.Machine

/-- `BF label` (rule R341). -/
def execBf (disp : BitVec 8) (s : State) : Result :=
  notInSlot s (fun s => if s.flagT then finish s else branchTo (s.target8 disp) s)

/-- `BF/S label` (rule R342). -/
def execBfS (disp : BitVec 8) (s : State) : Result :=
  notInSlot s (fun s => if s.flagT then finish s else delayedBranch (s.target8 disp) s.pr false s)

/-- `BT label` (rule R343). -/
def execBt (disp : BitVec 8) (s : State) : Result :=
  notInSlot s (fun s => if s.flagT then branchTo (s.target8 disp) s else finish s)

/-- `BT/S label` (rule R344). -/
def execBtS (disp : BitVec 8) (s : State) : Result :=
  notInSlot s (fun s => if s.flagT then delayedBranch (s.target8 disp) s.pr false s else finish s)

/-- `BRA label` (rule R345). -/
def execBra (disp : BitVec 12) (s : State) : Result :=
  notInSlot s (fun s => delayedBranch (s.target12 disp) s.pr false s)

/-- `BRAF Rm` (rule R346). -/
def execBraf (m : Reg) (s : State) : Result :=
  notInSlot s (fun s => delayedBranch (s.pcOperand + s.reg m) s.pr false s)

/-- `BSR label` (rule R347). -/
def execBsr (disp : BitVec 12) (s : State) : Result :=
  notInSlot s (fun s => delayedBranch (s.target12 disp) s.pr false { s with pr := s.pcOperand })

/-- `BSRF Rm` (rule R348). -/
def execBsrf (m : Reg) (s : State) : Result :=
  notInSlot s (fun s => delayedBranch (s.pcOperand + s.reg m) s.pr false { s with pr := s.pcOperand })

/-- `JMP @Rm` (rule R349). -/
def execJmp (m : Reg) (s : State) : Result :=
  notInSlot s (fun s => delayedBranch (s.reg m) s.pr false s)

/-- `JSR @Rm` (rule R350). -/
def execJsr (m : Reg) (s : State) : Result :=
  notInSlot s (fun s => delayedBranch (s.reg m) s.pr false { s with pr := s.pcOperand })

/-- `RTS` (rule R351). -/
def execRts (s : State) : Result :=
  notInSlot s (fun s => delayedBranch s.pr s.pr false s)

end Sys2Proof.Machine
end

