-- ==== Sys2Proof/Machine/DataTransfer.lean ====
section
/-! DEFINITION. The meanings of the data transfer instructions (40_data_transfer.md). One definition per instruction over the shared operations. -/

namespace Sys2Proof.Machine

/-- `MOV #imm,Rn` (rule R201). -/
def execMovImm (imm : BitVec 8) (n : Reg) (s : State) : Result :=
  finish (s.setReg n (sext8 imm))

/-- `MOV.W @(disp,PC),Rn` (rule R202). -/
def execMovWPc (disp : Nat) (n : Reg) (s : State) : Result :=
  pcRelative s (fun s => loadTo .word (s.eaPcWord disp) n id s)

/-- `MOV.L @(disp,PC),Rn` (rule R203). -/
def execMovLPc (disp : Nat) (n : Reg) (s : State) : Result :=
  pcRelative s (fun s => loadTo .long (s.eaPcLong disp) n id s)

/-- `MOV Rm,Rn` (rule R204). -/
def execMov (m : Reg) (n : Reg) (s : State) : Result :=
  finish (s.setReg n (s.reg m))

/-- `MOV.B Rm,@Rn` (rule R205). -/
def execMovBStore (m : Reg) (n : Reg) (s : State) : Result :=
  store .byte (s.reg n) (s.reg m) s finish

/-- `MOV.W Rm,@Rn` (rule R206). -/
def execMovWStore (m : Reg) (n : Reg) (s : State) : Result :=
  store .word (s.reg n) (s.reg m) s finish

/-- `MOV.L Rm,@Rn` (rule R207). -/
def execMovLStore (m : Reg) (n : Reg) (s : State) : Result :=
  store .long (s.reg n) (s.reg m) s finish

/-- `MOV.B @Rm,Rn` (rule R208). -/
def execMovBLoad (m : Reg) (n : Reg) (s : State) : Result :=
  loadTo .byte (s.reg m) n id s

/-- `MOV.W @Rm,Rn` (rule R209). -/
def execMovWLoad (m : Reg) (n : Reg) (s : State) : Result :=
  loadTo .word (s.reg m) n id s

/-- `MOV.L @Rm,Rn` (rule R210). -/
def execMovLLoad (m : Reg) (n : Reg) (s : State) : Result :=
  loadTo .long (s.reg m) n id s

/-- `MOV.B Rm,@-Rn` (rule R211). -/
def execMovBStoreDec (m : Reg) (n : Reg) (s : State) : Result :=
  store .byte (s.eaPreDec .byte n) (s.reg m) s (fun t => finish (t.setReg n (s.eaPreDec .byte n)))

/-- `MOV.W Rm,@-Rn` (rule R212). -/
def execMovWStoreDec (m : Reg) (n : Reg) (s : State) : Result :=
  store .word (s.eaPreDec .word n) (s.reg m) s (fun t => finish (t.setReg n (s.eaPreDec .word n)))

/-- `MOV.L Rm,@-Rn` (rule R213). -/
def execMovLStoreDec (m : Reg) (n : Reg) (s : State) : Result :=
  store .long (s.eaPreDec .long n) (s.reg m) s (fun t => finish (t.setReg n (s.eaPreDec .long n)))

/-- `MOV.B @Rm+,Rn` (rule R214). -/
def execMovBLoadInc (m : Reg) (n : Reg) (s : State) : Result :=
  loadTo .byte (s.reg m) n (fun t => t.setReg m (s.reg m + 1)) s

/-- `MOV.W @Rm+,Rn` (rule R215). -/
def execMovWLoadInc (m : Reg) (n : Reg) (s : State) : Result :=
  loadTo .word (s.reg m) n (fun t => t.setReg m (s.reg m + 2)) s

/-- `MOV.L @Rm+,Rn` (rule R216). -/
def execMovLLoadInc (m : Reg) (n : Reg) (s : State) : Result :=
  loadTo .long (s.reg m) n (fun t => t.setReg m (s.reg m + 4)) s

/-- `MOV.B R0,@(disp,Rn)` (rule R217). -/
def execMovBStoreDisp (disp : Nat) (n : Reg) (s : State) : Result :=
  store .byte (s.eaDisp .byte disp n) (s.reg 0) s finish

/-- `MOV.W R0,@(disp,Rn)` (rule R218). -/
def execMovWStoreDisp (disp : Nat) (n : Reg) (s : State) : Result :=
  store .word (s.eaDisp .word disp n) (s.reg 0) s finish

/-- `MOV.L Rm,@(disp,Rn)` (rule R219). -/
def execMovLStoreDisp (m : Reg) (disp : Nat) (n : Reg) (s : State) : Result :=
  store .long (s.eaDisp .long disp n) (s.reg m) s finish

/-- `MOV.B @(disp,Rm),R0` (rule R220). -/
def execMovBLoadDisp (disp : Nat) (m : Reg) (s : State) : Result :=
  loadTo .byte (s.eaDisp .byte disp m) 0 id s

/-- `MOV.W @(disp,Rm),R0` (rule R221). -/
def execMovWLoadDisp (disp : Nat) (m : Reg) (s : State) : Result :=
  loadTo .word (s.eaDisp .word disp m) 0 id s

/-- `MOV.L @(disp,Rm),Rn` (rule R222). -/
def execMovLLoadDisp (disp : Nat) (m : Reg) (n : Reg) (s : State) : Result :=
  loadTo .long (s.eaDisp .long disp m) n id s

/-- `MOV.B Rm,@(R0,Rn)` (rule R223). -/
def execMovBStoreIdx (m : Reg) (n : Reg) (s : State) : Result :=
  store .byte (s.eaIndexed n) (s.reg m) s finish

/-- `MOV.W Rm,@(R0,Rn)` (rule R224). -/
def execMovWStoreIdx (m : Reg) (n : Reg) (s : State) : Result :=
  store .word (s.eaIndexed n) (s.reg m) s finish

/-- `MOV.L Rm,@(R0,Rn)` (rule R225). -/
def execMovLStoreIdx (m : Reg) (n : Reg) (s : State) : Result :=
  store .long (s.eaIndexed n) (s.reg m) s finish

/-- `MOV.B @(R0,Rm),Rn` (rule R226). -/
def execMovBLoadIdx (m : Reg) (n : Reg) (s : State) : Result :=
  loadTo .byte (s.eaIndexed m) n id s

/-- `MOV.W @(R0,Rm),Rn` (rule R227). -/
def execMovWLoadIdx (m : Reg) (n : Reg) (s : State) : Result :=
  loadTo .word (s.eaIndexed m) n id s

/-- `MOV.L @(R0,Rm),Rn` (rule R228). -/
def execMovLLoadIdx (m : Reg) (n : Reg) (s : State) : Result :=
  loadTo .long (s.eaIndexed m) n id s

/-- `MOV.B R0,@(disp,GBR)` (rule R229). -/
def execMovBStoreGbr (disp : Nat) (s : State) : Result :=
  store .byte (s.eaGbr .byte disp) (s.reg 0) s finish

/-- `MOV.W R0,@(disp,GBR)` (rule R230). -/
def execMovWStoreGbr (disp : Nat) (s : State) : Result :=
  store .word (s.eaGbr .word disp) (s.reg 0) s finish

/-- `MOV.L R0,@(disp,GBR)` (rule R231). -/
def execMovLStoreGbr (disp : Nat) (s : State) : Result :=
  store .long (s.eaGbr .long disp) (s.reg 0) s finish

/-- `MOV.B @(disp,GBR),R0` (rule R232). -/
def execMovBLoadGbr (disp : Nat) (s : State) : Result :=
  loadTo .byte (s.eaGbr .byte disp) 0 id s

/-- `MOV.W @(disp,GBR),R0` (rule R233). -/
def execMovWLoadGbr (disp : Nat) (s : State) : Result :=
  loadTo .word (s.eaGbr .word disp) 0 id s

/-- `MOV.L @(disp,GBR),R0` (rule R234). -/
def execMovLLoadGbr (disp : Nat) (s : State) : Result :=
  loadTo .long (s.eaGbr .long disp) 0 id s

/-- `MOVA @(disp,PC),R0` (rule R235). -/
def execMova (disp : Nat) (s : State) : Result :=
  pcRelative s (fun s => finish (s.setReg 0 (s.eaPcLong disp)))

/-- `MOVT Rn` (rule R236). -/
def execMovt (n : Reg) (s : State) : Result :=
  finish (s.setReg n (bitWord s.flagT))

/-- `SWAP.B Rm,Rn` (rule R237). -/
def execSwapB (m : Reg) (n : Reg) (s : State) : Result :=
  let v := s.reg m
  finish (s.setReg n (v.extractLsb' 16 16 ++ v.extractLsb' 0 8 ++ v.extractLsb' 8 8))

/-- `SWAP.W Rm,Rn` (rule R238). -/
def execSwapW (m : Reg) (n : Reg) (s : State) : Result :=
  let v := s.reg m
  finish (s.setReg n (v.extractLsb' 0 16 ++ v.extractLsb' 16 16))

/-- `XTRCT Rm,Rn` (rule R239). -/
def execXtrct (m : Reg) (n : Reg) (s : State) : Result :=
  finish (s.setReg n ((s.reg m).extractLsb' 0 16 ++ (s.reg n).extractLsb' 16 16))

end Sys2Proof.Machine
end

