-- ==== Sys2Proof/Machine/Logic.lean ====
section
/-! DEFINITION. The meanings of the logic instructions (42_logic.md). One definition per instruction over the shared operations. -/

namespace Sys2Proof.Machine

/-- Read a byte, change it, write it back; another agent may come between the two accesses (rules R113, R301, R304, R308,
R315). -/
def modifyByte (a : Word) (s : State) (f : Word → Word) : Result :=
  load .byte a s (fun v s => store .byte a (f v) s finish)

/-- `AND Rm,Rn` (rule R302). -/
def execAndReg (m : Reg) (n : Reg) (s : State) : Result :=
  finish (s.setReg n (s.reg n &&& s.reg m))

/-- `AND #imm,R0` (rule R303). -/
def execAndImm (imm : BitVec 8) (s : State) : Result :=
  finish (s.setReg 0 (s.reg 0 &&& zext8 imm))

/-- `AND.B #imm,@(R0,GBR)` (rule R304). -/
def execAndB (imm : BitVec 8) (s : State) : Result :=
  modifyByte s.eaGbrIndexed s (fun v => v &&& zext8 imm)

/-- `NOT Rm,Rn` (rule R305). -/
def execNotReg (m : Reg) (n : Reg) (s : State) : Result :=
  finish (s.setReg n (~~~(s.reg m)))

/-- `OR Rm,Rn` (rule R306). -/
def execOrReg (m : Reg) (n : Reg) (s : State) : Result :=
  finish (s.setReg n (s.reg n ||| s.reg m))

/-- `OR #imm,R0` (rule R307). -/
def execOrImm (imm : BitVec 8) (s : State) : Result :=
  finish (s.setReg 0 (s.reg 0 ||| zext8 imm))

/-- `OR.B #imm,@(R0,GBR)` (rule R308). -/
def execOrB (imm : BitVec 8) (s : State) : Result :=
  modifyByte s.eaGbrIndexed s (fun v => v ||| zext8 imm)

/-- `TAS.B @Rn` (rule R309): nobody comes between its read and its write (rules R113, R135). A count clock that meets it on
CMCNT meets both: the read sees the counter before the clock, the write is as rule R609 says (log entry 34). -/
def execTasB (n : Reg) (s : State) : Result :=
  let a := s.reg n
  load .byte a s (fun v s => storeNow .byte a (v ||| 0x80) s (fun s => finish (s.setT (decide (v = 0)))))

/-- `TST Rm,Rn` (rule R310). -/
def execTst (m : Reg) (n : Reg) (s : State) : Result :=
  finish (s.setT (decide (s.reg n &&& s.reg m = 0)))

/-- `TST #imm,R0` (rule R311). -/
def execTstImm (imm : BitVec 8) (s : State) : Result :=
  finish (s.setT (decide (s.reg 0 &&& zext8 imm = 0)))

/-- `TST.B #imm,@(R0,GBR)` (rule R312). -/
def execTstB (imm : BitVec 8) (s : State) : Result :=
  load .byte s.eaGbrIndexed s (fun v s => finish (s.setT (decide (v &&& zext8 imm = 0))))

/-- `XOR Rm,Rn` (rule R313). -/
def execXorReg (m : Reg) (n : Reg) (s : State) : Result :=
  finish (s.setReg n (s.reg n ^^^ s.reg m))

/-- `XOR #imm,R0` (rule R314). -/
def execXorImm (imm : BitVec 8) (s : State) : Result :=
  finish (s.setReg 0 (s.reg 0 ^^^ zext8 imm))

/-- `XOR.B #imm,@(R0,GBR)` (rule R315). -/
def execXorB (imm : BitVec 8) (s : State) : Result :=
  modifyByte s.eaGbrIndexed s (fun v => v ^^^ zext8 imm)

end Sys2Proof.Machine
end

