-- ==== Sys2Proof/Machine/Shift.lean ====
section
/-! DEFINITION. The meanings of the shift and rotate instructions (43_shift.md). One definition per instruction over the shared operations. -/

namespace Sys2Proof.Machine

/-- `ROTL Rn` (rule R321). -/
def execRotl (n : Reg) (s : State) : Result :=
  let v := s.reg n
  finish (s.setRegT n ((v <<< 1) ||| bitWord (bitOf v 31)) (bitOf v 31))

/-- `ROTR Rn` (rule R322). -/
def execRotr (n : Reg) (s : State) : Result :=
  let v := s.reg n
  finish (s.setRegT n (withBit (v >>> 1) 31 (bitOf v 0)) (bitOf v 0))

/-- `ROTCL Rn` (rule R323). -/
def execRotcl (n : Reg) (s : State) : Result :=
  let v := s.reg n
  finish (s.setRegT n ((v <<< 1) ||| bitWord s.flagT) (bitOf v 31))

/-- `ROTCR Rn` (rule R324). -/
def execRotcr (n : Reg) (s : State) : Result :=
  let v := s.reg n
  finish (s.setRegT n (withBit (v >>> 1) 31 s.flagT) (bitOf v 0))

/-- `SHAL Rn` (rule R325). -/
def execShal (n : Reg) (s : State) : Result :=
  let v := s.reg n
  finish (s.setRegT n (v <<< 1) (bitOf v 31))

/-- `SHAR Rn` (rule R326). -/
def execShar (n : Reg) (s : State) : Result :=
  let v := s.reg n
  finish (s.setRegT n (v.sshiftRight 1) (bitOf v 0))

/-- `SHLL Rn` (rule R327). -/
def execShll (n : Reg) (s : State) : Result :=
  let v := s.reg n
  finish (s.setRegT n (v <<< 1) (bitOf v 31))

/-- `SHLR Rn` (rule R328). -/
def execShlr (n : Reg) (s : State) : Result :=
  let v := s.reg n
  finish (s.setRegT n (v >>> 1) (bitOf v 0))

/-- `SHLL2 Rn` (rule R329). -/
def execShll2 (n : Reg) (s : State) : Result :=
  finish (s.setReg n (s.reg n <<< 2))

/-- `SHLR2 Rn` (rule R330). -/
def execShlr2 (n : Reg) (s : State) : Result :=
  finish (s.setReg n (s.reg n >>> 2))

/-- `SHLL8 Rn` (rule R331). -/
def execShll8 (n : Reg) (s : State) : Result :=
  finish (s.setReg n (s.reg n <<< 8))

/-- `SHLR8 Rn` (rule R332). -/
def execShlr8 (n : Reg) (s : State) : Result :=
  finish (s.setReg n (s.reg n >>> 8))

/-- `SHLL16 Rn` (rule R333). -/
def execShll16 (n : Reg) (s : State) : Result :=
  finish (s.setReg n (s.reg n <<< 16))

/-- `SHLR16 Rn` (rule R334). -/
def execShlr16 (n : Reg) (s : State) : Result :=
  finish (s.setReg n (s.reg n >>> 16))

end Sys2Proof.Machine
end

