-- ==== Sys2Proof/Machine/Power.lean ====
section
/-! DEFINITION. SLEEP, its preconditions and the modes it enters (rules R86, R390, R620 to R627, R698). -/

namespace Sys2Proof.Machine

/-- The DTC cannot act: its clock is stopped, or no activation runs and none is requested (rule R627). -/
def State.dtcStopped (s : State) : Bool :=
  bitOf s.power.stbcr2 4 || (s.dtc.activity.isNone && s.dtc.queue.isEmpty)

/-- No on-chip peripheral, IRQ or NMI request arises: no request line is asserted, on either of two shared lines, whatever
its level and the mask (rule R627, measure A; what "arises" means is DESIGN CHOICE, log entry 18). -/
def State.noRequest (s : State) : Bool :=
  !s.intc.nmiPending && !(intSources.any (fun r => s.requests r || s.secondRequests r))

/-- Measure A or measure B of rule R627. -/
def State.sleepMeasure (s : State) : Bool := (s.dtcStopped && s.noRequest) || decide (s.cpg.sync = 3)

/-- The pins stand at the inactive level of their selected edge (rule R622). For an IRQ pin sensed on both edges either level
is accepted, the model's choice: the rule names no inactive level for it (log entry 18). -/
def State.edgePinsInactive (s : State) : Bool :=
  decide (s.pins.nmi = !s.intc.nmie) &&
    (List.range 4).all (fun n =>
      if s.intc.sense n = 1 then bitOf s.pins.irq n
      else if s.intc.sense n = 2 then !(bitOf s.pins.irq n)
      else true)

/-- The preconditions common to both standby modes: WTCSR.TME = 0 and the DTC stopped (rules R597, R622, R624, R698). -/
def State.standbyReady (s : State) : Bool := !s.wdt.tme && s.dtcStopped

/-- The further preconditions of software standby: WTCNT and every DTCER cleared, the wake-up pins inactive, the RAM
monitor not in use (rules R560, R622). -/
def State.softwareStandbyReady (s : State) : Bool :=
  s.standbyReady && decide (s.wdt.wtcnt = 0) && !s.dtc.anyEnabled && s.edgePinsInactive && !s.ramMonitor

/-- Software standby initialises the CMT, the flash interface registers and OSCSTOP; the rest is held (rules R86, R622). That
an open window of FMATS goes on after it (rules R634, R691; log entry 30), and that a request line of a module outside the
scope whose registers it initialises stays asserted (rules R481, R665; log entry 41), is the model's choice. -/
def enterStandby (s : State) : State :=
  { s with proc := .standby false, cmt := .reset,
           flash := { Flash.reset s.mode with ramer := s.flash.ramer },
           cpg := { s.cpg with oscstop := true } }

/-- `SLEEP` (rule R390): into sleep, software standby or deep software standby, within the manual's preconditions. That the
power cut of deep software standby ends an external write still in progress with a free number of its bytes done, as a
power-on reset does, is the model's choice (rules R390, R552, R624; log entry 54). -/
def lowPower (s : State) : Result :=
  if s.bsc.released then .fault .sleepPrecondition
  else if !(bitOf s.power.stbcr1 7) then
    if s.sleepMeasure then .next { advance s with irqBlock := false, proc := .sleep }
    else .fault .sleepPrecondition
  else if bitOf s.power.stbcr6 1 then
    if s.sleepMeasure && s.softwareStandbyReady then
      .next (enterStandby { advance s with irqBlock := false })
    else .fault .sleepPrecondition
  else if s.standbyReady then .next { powerCut (cutExternalWrite s) with proc := .deep }
  else .fault .sleepPrecondition

end Sys2Proof.Machine
end

