-- ==== Sys2Proof/Machine/SystemControl.lean ====
section
/-! DEFINITION. The meanings of the system control instructions (45_system_control.md). One definition per instruction over the shared operations. -/

namespace Sys2Proof.Machine

/-- `LDC.L` and `LDS.L @Rm+`: read a longword, advance Rm, write the register (rules R360, R368 to R376). After an
address error the register has the value that `spoil` gives it if the address was misaligned (rule R106). -/
def loadSystem (m : Reg) (spoil : Word → State → State) (s : State) (k : Word → State → State) : Result :=
  loadOr .long (s.reg m) spoil s (fun v t => finishBlocking (k v (t.setReg m (s.reg m + 4))))

/-- The destination keeps its value on an address error: MACH, MACL and PR (decision D7, conflict C42). -/
def keeps (_ : Word) (s : State) : State := s

/-- SR with an open value but for T, which keeps its own (rule R106, decision D7, conflict C42). -/
def spoilSr (v : Word) (s : State) : State := (s.writeSr v).setT s.flagT

/-- `STC.L` and `STS.L @-Rn`: write a longword below Rn, which then takes the lowered address (rules R360, R380 to R382,
R387 to R389). -/
def storeSystem (n : Reg) (s : State) (v : Word) : Result :=
  store .long (s.eaPreDec .long n) v s (fun t => finishBlocking (t.setReg n (s.eaPreDec .long n)))

/-- `CLRT` (rule R361). -/
def execClrt (s : State) : Result :=
  finish (s.setT false)

/-- `SETT` (rule R362). -/
def execSett (s : State) : Result :=
  finish (s.setT true)

/-- `CLRMAC` (rule R363). -/
def execClrmac (s : State) : Result :=
  finish { s with mach := 0, macl := 0 }

/-- `NOP` (rule R364). -/
def execNop (s : State) : Result :=
  finish s

/-- `LDC Rm,SR` (rule R365). -/
def execLdcSr (m : Reg) (s : State) : Result :=
  notInSlot s (fun s => finishBlocking (s.writeSr (s.reg m)))

/-- `LDC Rm,GBR` (rule R366). -/
def execLdcGbr (m : Reg) (s : State) : Result :=
  finishBlocking { s with gbr := s.reg m }

/-- `LDC Rm,VBR` (rule R367). -/
def execLdcVbr (m : Reg) (s : State) : Result :=
  finishBlocking { s with vbr := s.reg m }

/-- `LDC.L @Rm+,SR` (rule R368). -/
def execLdcLSr (m : Reg) (s : State) : Result :=
  notInSlot s (fun s => loadSystem m spoilSr s (fun v s => s.writeSr v))

/-- `LDC.L @Rm+,GBR` (rule R369). -/
def execLdcLGbr (m : Reg) (s : State) : Result :=
  loadSystem m (fun v s => { s with gbr := v }) s (fun v s => { s with gbr := v })

/-- `LDC.L @Rm+,VBR` (rule R370). -/
def execLdcLVbr (m : Reg) (s : State) : Result :=
  loadSystem m (fun v s => { s with vbr := v }) s (fun v s => { s with vbr := v })

/-- `LDS Rm,MACH` (rule R371). -/
def execLdsMach (m : Reg) (s : State) : Result :=
  finishBlocking { s with mach := s.reg m }

/-- `LDS Rm,MACL` (rule R372). -/
def execLdsMacl (m : Reg) (s : State) : Result :=
  finishBlocking { s with macl := s.reg m }

/-- `LDS Rm,PR` (rule R373). -/
def execLdsPr (m : Reg) (s : State) : Result :=
  finishBlocking { s with pr := s.reg m }

/-- `LDS.L @Rm+,MACH` (rule R374). -/
def execLdsLMach (m : Reg) (s : State) : Result :=
  loadSystem m keeps s (fun v s => { s with mach := v })

/-- `LDS.L @Rm+,MACL` (rule R375). -/
def execLdsLMacl (m : Reg) (s : State) : Result :=
  loadSystem m keeps s (fun v s => { s with macl := v })

/-- `LDS.L @Rm+,PR` (rule R376). -/
def execLdsLPr (m : Reg) (s : State) : Result :=
  loadSystem m keeps s (fun v s => { s with pr := v })

/-- `STC SR,Rn` (rule R377). -/
def execStcSr (n : Reg) (s : State) : Result :=
  finishBlocking (s.setReg n s.sr)

/-- `STC GBR,Rn` (rule R378). -/
def execStcGbr (n : Reg) (s : State) : Result :=
  finishBlocking (s.setReg n s.gbr)

/-- `STC VBR,Rn` (rule R379). -/
def execStcVbr (n : Reg) (s : State) : Result :=
  finishBlocking (s.setReg n s.vbr)

/-- `STC.L SR,@-Rn` (rule R380). -/
def execStcLSr (n : Reg) (s : State) : Result :=
  storeSystem n s s.sr

/-- `STC.L GBR,@-Rn` (rule R381). -/
def execStcLGbr (n : Reg) (s : State) : Result :=
  storeSystem n s s.gbr

/-- `STC.L VBR,@-Rn` (rule R382). -/
def execStcLVbr (n : Reg) (s : State) : Result :=
  storeSystem n s s.vbr

/-- `RTE` (rule R383). -/
def execRte (s : State) : Result :=
  notInSlot s returnFromException

/-- `STS MACH,Rn` (rule R384). -/
def execStsMach (n : Reg) (s : State) : Result :=
  finishBlocking (s.setReg n s.mach)

/-- `STS MACL,Rn` (rule R385). -/
def execStsMacl (n : Reg) (s : State) : Result :=
  finishBlocking (s.setReg n s.macl)

/-- `STS PR,Rn` (rule R386). -/
def execStsPr (n : Reg) (s : State) : Result :=
  finishBlocking (s.setReg n s.pr)

/-- `STS.L MACH,@-Rn` (rule R387). -/
def execStsLMach (n : Reg) (s : State) : Result :=
  storeSystem n s s.mach

/-- `STS.L MACL,@-Rn` (rule R388). -/
def execStsLMacl (n : Reg) (s : State) : Result :=
  storeSystem n s s.macl

/-- `STS.L PR,@-Rn` (rule R389). -/
def execStsLPr (n : Reg) (s : State) : Result :=
  storeSystem n s s.pr

/-- `SLEEP` (rule R390). -/
def execSleep (s : State) : Result :=
  lowPower s

/-- `TRAPA #imm` (rule R391). -/
def execTrapa (imm : BitVec 8) (s : State) : Result :=
  notInSlot s (trap imm.toNat)

end Sys2Proof.Machine
end

