-- ==== Sys2Proof/Machine/Cpu.lean ====
section
/-! DEFINITION. One step of the CPU in the program execution state (rule R433): the break before execution, the fetch
and decode with their exceptions, the acceptance of interrupts, the instruction itself; and the reset sequence. -/

namespace Sys2Proof.Machine

/-- The instruction is a delayed branch, other than RTE, that will be taken: the instruction after it is its slot
(rules R340, R433 step 2, R522 (f)). -/
def takesSlot (i : Instr) (s : State) : Bool :=
  match i with
  | .bra _ | .braf _ | .bsr _ | .bsrf _ | .jmp _ | .jsr _ | .rts => true
  | .bfS _ => !s.flagT
  | .btS _ => s.flagT
  | _ => false

/-- A break before execution can be taken now (rules R433 step 2, R436). -/
def breakTakeable (s : State) : Bool := decide (s.mask < 15) && !s.irqBlock

/-- The exception accepted at this boundary (rules R432, R433 step 5): a held user break, a DTC address error, NMI, or
the selected interrupt; with its vector, the new mask, and the state with the request acknowledged. That the break of a data
access just before SLEEP is accepted before SLEEP, like any other, is the model's choice (rule R522 (g); log entry 50). -/
def acceptance (s : State) : Option (Nat × Option Nat × State) :=
  if s.ubc.live.pending && breakTakeable s then some (12, some 15, acknowledge 12 s)
  else if s.dtc.addressError then some (10, none, { s with dtc := { s.dtc with addressError := false } })
  else if s.irqBlock then none
  else
    match intcSelect s with
    | none => none
    | some (v, l) => some (v, some (min l 15), acknowledge v s)

/-- Fetch and decode the instruction at pc, with the exceptions of both (rules R433 steps 3 and 4, R441, R450, R451,
R453). `latch` keeps a break before execution that could not be taken: its flag is set all the same (rule R522 (d)). -/
def fetchDecode (latch : State → State) (s : State) (k : Instr → State → Result) : Result :=
  match fetchHalf s s.pc with
  | .addressError s => fetchAddressError (latch s)
  | .stop f => .fault f
  | .ok w s =>
    match decode w with
    | .ok i => k i s
    | .error .illegalCode => illegalException (latch s)
    | .error .undefinedCode => .fault .undefinedOpcode
    | .error .truncated => .fault .undefinedOpcode

/-- Run the instruction that has passed every check (rule R433 step 6). A break after execution is latched here for SLEEP too, and
SLEEP runs (rule R522 (g); log entry 50). It alone counts as an instruction of the windows of rules R690 to R692: that a
code which is fetched and not executed, and an exception entry, do not count, and that a decoded instruction does which is
slot illegal and so not executed (rule R352), is the model's choice (log entry 30). -/
def runDecoded (h : FetchHits) (i : Instr) (s : State) : Result :=
  mapNext tickWindows (exec i (ubcPost h s))

/-- The rest of a boundary once the instruction is decoded: the break before its slot, with the branch's own matches
counted first, the acceptance, the instruction (rules R433 steps 2, 5 and 6, R519). That in a sequence a break after execution
of the branch on channel A does not count before the slot's break on channel B is the model's choice (log entry 49). -/
def boundaryDecoded (h : FetchHits) (i : Instr) (s : State) : Result :=
  let x := if takesSlot i s then ubcFetchHits (s.pc + 2) s else (noHits s, s)
  let s := x.2
  let p := ubcPre x.1 (latchPre h s)
  if p.1 && breakTakeable s then enter 12 s.pc (some 15) p.2
  else
    match acceptance s with
    | some (vec, newI, t) => enter vec t.pc newI t
    | none => runDecoded h i (ubcMark (latchPre x.1 (latchPre h s)))

/-- An instruction boundary outside a delay slot (rule R433). A break before execution enters vector 12 and leaves a
request that is already held as it is (rules R433 step 2, R482; log entry 48). -/
def runBoundary (s : State) : Result :=
  let s := ubcMark (if s.irqBlock then s else ubcBoundary s)
  let h := ubcFetchHits s.pc s
  let s := h.2
  let p := ubcPre h.1 s
  if p.1 && breakTakeable s then enter 12 s.pc (some 15) p.2
  else fetchDecode (fun t => ubcMark (latchPre h.1 t)) s (boundaryDecoded h.1)

/-- The delay slot: no interrupt is accepted before it; a break before the slot of RTE is held to the target
(rules R437, R522 (f)). A break before the slot of another branch was looked at before the branch (log entry 49). That SLEEP in
the slot of a branch with a break after execution enters its mode, the break held, is the model's choice (rule R522 (g); log
entry 50). -/
def runSlot (d : DelaySlot) (s : State) : Result :=
  fetchDecode id s (fun i s =>
    let h := ubcFetchHits s.pc s
    runDecoded h.1 i (if d.rte then latchPre h.1 h.2 else h.2))

/-- One instruction, or one exception entry, from a state in program execution. -/
def runInstruction (s : State) : Result :=
  match s.slot with
  | none => runBoundary s
  | some d => runSlot d s

/-- The vectors of a reset (rule R414). -/
def ResetKind.vector : ResetKind → Nat
  | .powerOn | .wdtPowerOn => 0
  | .manual | .wdtManual => 2

/-- A vector read of the reset sequence. -/
def resetRead (a : Nat) (s : State) (k : Word → State → Result) : Result :=
  beforeAccess (BitVec.ofNat 32 a) s (fun s =>
    match cpuRead s .long (BitVec.ofNat 32 a) with
    | .addressError _ => .fault .vectorAddressError
    | .stop f => .fault f
    | .ok v s => k v s)

/-- The reset exception sequence (rule R414): PC and SP from their fixed vectors, VBR = 0, the mask 15. -/
def resetSequence (k : ResetKind) (s : State) : Result :=
  resetRead (4 * k.vector) s (fun newPc s =>
    resetRead (4 * k.vector + 4) s (fun newSp s =>
      .next ({ s with vbr := 0, sr := withMask s.sr 15 &&& 0x3F3, pc := newPc, irqBlock := false, slot := none,
                      proc := .run }.setReg 15 newSp)))

/-- What follows every step of the CPU: no count clock coincides with a later access, the windows, the DTC's request queue and
the bus right (rules R551, R562, R609, R690 to R692). -/
def settle (s : State) : State := settleBus (refreshQueue (boundWindows (clearRaces s)))

/-- The fetch of the next instruction from external memory waits for the DTC (rule R573). -/
def State.fetchWaits (s : State) : Bool := s.dtcBlocks s.pc && s.fetchable s.pc

/-- The CPU's step in its processing state (rules R36, R37, R433, R438): only program execution and the reset sequence
do anything; while the bus is released, or the DTC keeps the bus that the fetch needs, the CPU waits. -/
def cpuStep (s : State) : Result :=
  let s := clearRaces s
  match s.proc with
  | .run => if s.bsc.released || s.fetchWaits then .next s else mapNext settle (runInstruction s)
  | .resetEntry k => if s.bsc.released then .next s else mapNext settle (resetSequence k s)
  | .resetHeld _ | .sleep | .standby _ | .deep | .hardware => .next s

end Sys2Proof.Machine
end

