-- ==== Sys2Proof/Machine/Env.lean ====
section
/-! DEFINITION. Whose step is next: the agenda, and with nothing on it every agent in its turn (rules R130, R132, R710);
and the placing of an instruction word. -/

namespace Sys2Proof.Machine

/-- A step of another agent, or an input from outside; the windows it opened and the bus right follow it (log entry 30). -/
def otherStep (e : Event) (s : State) : Result :=
  match agentEvent e s with
  | .ok t => .next (settleBus (boundWindows t))
  | .error f => .fault f

/-- Apply an event. A store of the debugger opens the prefetch window too (rule R136; log entry 17). -/
def applyEvent (e : Event) (s : State) : Result :=
  match e with
  | .cpu => cpuStep s
  | .dtc _ | .ptick _ | .pin _ _ | .line _ _ | .clockStop | .audRead _ _ | .audWrite _ _ _ | .external _ _ _ =>
    otherStep e s

/-- Take the next event of the agenda. With nothing on it the CPU, the DTC and the peripheral clock go on in turn, so
that every agent keeps running (rules R132, R710; log entry 5). -/
def schedule (s : State) : Result :=
  match s.agenda with
  | e :: rest => applyEvent e { s with agenda := rest }
  | [] =>
    match s.turn with
    | .cpu => cpuStep { s with turn := .dtc }
    | .dtc => let d := s.drawBit; otherStep (.dtc d.1) { d.2 with turn := .ptick }
    | .ptick => otherStep (.ptick false) { s with turn := .cpu }

/-- Store an instruction word where the next step fetches it: in on-chip RAM, with the machine in program execution
there and the CPU's step the next. -/
def placeWord (w : Nat) (s : State) : State :=
  { s with proc := .run, pc := 0xFFFFA000, slot := none, agenda := [], turn := .cpu,
           mem := Memory.putList s.mem 0xFFFFA000 (beBytes .word (BitVec.ofNat 32 (w % 65536))) }

end Sys2Proof.Machine
end

