-- ==== Sys2Proof/Machine/Step.lean ====
section
/-! DEFINITION. The step of the machine, and the placing of an instruction word for it. -/

namespace Sys2Proof.Machine

/-- One step. The machine does not start in the prohibited mode 1 or in boot mode 4 (rules R118, R666). -/
def step (s : State) : Host.Outcome State Fault Refusal :=
  match s.mode with
  | .mode1 => .refused .prohibitedMode
  | .mode4 => .refused .bootMode
  | .mode0 | .mode2 | .mode3 | .mode5 | .mode6 | .mode7 => schedule s

/-- The state whose next step fetches and runs the 16-bit instruction word `w` (log entry 7). -/
def State.withFetchWord (s : State) (_nbits w : Nat) : State := placeWord w s

end Sys2Proof.Machine
end

