-- ==== Sys2Proof/Safety.lean ====
section
/-! DEFINITION. What statements about the machine speak of: the state invariant, a quiet state (a step is the instruction
at pc and nothing else), storage without side effects, and the frames: what an instruction leaves as it was. -/

namespace Sys2Proof.Machine

/-- SR's reserved bits are 0 (rule R24). -/
def State.srOk (s : State) : Bool := decide (s.sr &&& 0xFFFFFC0C = 0)

/-- The memories keep their canonical form, SR's reserved bits read 0, DTCVBR keeps its low bits 0, and the trace queue
holds at most two entries (rules R24, R102, R508, R559). -/
def State.inv (s : State) : Bool :=
  Memory.wf s.mem && Memory.wf s.bootMat && s.srOk && decide (s.dtc.dtcvbr &&& 0xFFF = 0) &&
    decide (s.ubc.trace.length ≤ 2)

/-- The mode is one the machine runs in (rule R118). -/
def modeRuns (m : Mode) : Bool := decide (m ≠ .mode1) && decide (m ≠ .mode4)

/-- The CPU's step is next and nothing of another agent falls into it. -/
def State.cpuTurn (s : State) : Bool :=
  modeRuns s.mode && s.agenda.isEmpty && decide (s.turn = .cpu) && s.alone

/-- The UBC breaks neither before nor after the instruction at an address: it cannot match at all, or its last settings
apply and neither channel matches the fetch there (rules R509, R512, R513). -/
def State.ubcMisses (s : State) (a : Word) : Bool :=
  s.ubcQuiet || bitOf a 0 ||
    (s.ubc.lag.isEmpty && !(channelMatches s.ubc.regs.a false (fetchCycle a) false) &&
      !(channelMatches s.ubc.regs.b false (fetchCycle a) false))

/-- Program execution with the CPU's step next: it owns the bus, and the UBC, whether its clock runs or not, breaks neither
at the instruction at pc nor at the one after it, the slot of a delayed branch. Interrupt requests, a DTC address error and a
user break may be held. -/
def State.cpuNext (s : State) : Bool :=
  s.cpuTurn && decide (s.proc = .run) && !s.bsc.released && s.ubcMisses s.pc && s.ubcMisses (s.pc + 2)

/-- The state in which the CPU's step runs when it is its turn: the next turn is the DTC's (rule R710; log entry 5). -/
def State.atCpuStep (s : State) : State := { s with turn := .dtc }

/-- The state in which a boundary outside a delay slot looks at the requests: where interrupts are acceptable, a data break
that was put off is a boundary nearer (rules R433, R514, R521). -/
def State.atBoundary (s : State) : State := ubcMark (if s.irqBlock then s.atCpuStep else ubcBoundary s.atCpuStep)

/-- A memory operand whose read has no effect: aligned, in on-chip ROM or RAM with their clocks, RAM enabled, no overlay
and no recent change of RAMCR, FMATS or RAMER. -/
def State.plain (s : State) (z : Size) (a : Word) : Bool :=
  !(misaligned z a) && decide (s.windows.ramcr = 0) && decide (s.windows.fmats = 0) && decide (s.windows.ramer = 0) &&
    !(ramsOf s.flash.ramer) &&
    ((decide (s.regionOf a.toNat = .ram) && !(bitOf s.power.stbcr2 7) && bitOf s.power.ramcr 4) ||
      (decide (s.regionOf a.toNat = .rom) && !(bitOf s.power.stbcr2 6) && decide (s.flash.fmats ≠ 0xAA)))

/-- A plain operand in RAM, which also takes a write. -/
def State.plainRam (s : State) (z : Size) (a : Word) : Bool := s.plain z a && decide (s.regionOf a.toNat = .ram)

/-- A loaded operand sign-extended from its own width (rule R103). -/
def signExtended (z : Size) (v : Word) : Word := (v.setWidth (8 * z.bytes)).signExtend 32

/-- The special registers of the CPU (rules R26 to R29). -/
inductive Special where
  | gbr | vbr | mach | macl | pr
  deriving DecidableEq, Repr

/-- The value of a special register. -/
def State.special (s : State) (x : Special) : Word :=
  match x with
  | .gbr => s.gbr
  | .vbr => s.vbr
  | .mach => s.mach
  | .macl => s.macl
  | .pr => s.pr

/-- Every general register but those listed is unchanged. -/
def State.keepsRegs (s t : State) (changed : List Reg) : Prop := ∀ r, r ∉ changed → t.reg r = s.reg r

/-- Every bit of SR but those listed is unchanged. -/
def State.keepsSr (s t : State) (changed : List Nat) : Prop := ∀ k, k ∉ changed → bitOf t.sr k = bitOf s.sr k

/-- Every special register but those listed is unchanged. -/
def State.keepsSpecial (s t : State) (changed : List Special) : Prop := ∀ x, x ∉ changed → t.special x = s.special x

/-- Every byte of memory reads as before. -/
def State.keepsMemory (s t : State) : Prop := ∀ a, t.byteAt a = s.byteAt a

/-- Every byte outside the operand of a size at an address reads as before. -/
def State.keepsMemoryOutside (s t : State) (z : Size) (a : Nat) : Prop :=
  ∀ b, b < a ∨ a + z.bytes ≤ b → t.byteAt b = s.byteAt b

/-- The processing state, the pins and every module of the chip are unchanged; of the UBC its registers and flags (a
branch or the end of a delay slot may add to its trace queue). -/
structure State.keepsModules (s t : State) : Prop where
  proc : t.proc = s.proc
  part : t.part = s.part
  mode : t.mode = s.mode
  pins : t.pins = s.pins
  lines : t.lines = s.lines
  intc : t.intc = s.intc
  ubcRegs : t.ubc.regs = s.ubc.regs
  ubcFlags : t.ubc.live = s.ubc.live
  dtc : t.dtc = s.dtc
  bsc : t.bsc = s.bsc
  cpg : t.cpg = s.cpg
  wdt : t.wdt = s.wdt
  cmt : t.cmt = s.cmt
  power : t.power = s.power
  flash : t.flash = s.flash
  aud : t.aud = s.aud

/-- The instruction ends: the next one is at pc + 2, or at the branch's target after a delay slot; no slot is open; and
`block` says whether the next boundary takes no interrupt (rules R30, R340, R436). -/
def State.movesOn (s t : State) (block : Bool) : Prop :=
  t.pc = (match s.slot with | none => s.pc + 2 | some d => d.target) ∧ t.slot = none ∧ t.irqBlock = block

/-- The CPU's frame of an instruction: all but the listed registers, SR bits and special registers is unchanged, and the
instruction ends. -/
def State.frame (s t : State) (regs : List Reg) (bits : List Nat) (specials : List Special) (block : Bool) : Prop :=
  s.keepsRegs t regs ∧ s.keepsSr t bits ∧ s.keepsSpecial t specials ∧ s.movesOn t block

/-- The whole frame of an instruction that accesses no memory. -/
def State.frameAll (s t : State) (regs : List Reg) (bits : List Nat) (specials : List Special) (block : Bool) : Prop :=
  s.frame t regs bits specials block ∧ s.keepsMemory t ∧ s.keepsModules t

/-- `exec` answers a next state, and that state is as said. -/
def Runs (i : Instr) (s : State) (q : State → Prop) : Prop := ∃ t, exec i s = .next t ∧ q t

/-- In program execution the CPU comes to its access of an address with the state `x`, after whatever the other agents do
before it (`x` is `s` itself when nothing comes between; rules R113, R132). -/
def Reaches (s : State) (ea : Word) (x : State) : Prop := s.proc = .run ∧ between ea s = .go x

/-- The instruction loads Rn: whenever the read of the operand, in the state `x` the CPU comes to it with, succeeds, with
value `v` and its own effects `u`, the instruction completes with the sign-extended value in Rn, a post-incremented
register advanced (unless it is Rn itself), and nothing else changed (rules R103, R158). -/
def Loads (i : Instr) (s : State) (z : Size) (ea : Word) (n : Reg) (inc : List Reg) : Prop :=
  ∀ x v u, Reaches s ea x → cpuRead x z ea = .ok v u →
    Runs i s (fun t => t.reg n = signExtended z v ∧
      (∀ m ∈ inc, m ≠ n → t.reg m = s.reg m + BitVec.ofNat 32 z.bytes) ∧
      s.frame t (n :: inc) [] [] false ∧ x.keepsMemory t ∧ u.keepsModules t)

/-- The instruction stores `v`: whenever the write, in the state `x` the CPU comes to it with, succeeds, with its own
effects `u`, the instruction completes, a pre-decremented register holds the address, no byte outside the operand
changes, none at all when the address is a register's, and a plain operand in RAM holds the value. -/
def Stores (i : Instr) (s : State) (z : Size) (ea v : Word) (dec : List Reg) (block : Bool) : Prop :=
  ∀ x u, Reaches s ea x → cpuWrite x z ea v = .ok () u →
    Runs i s (fun t => (∀ n ∈ dec, t.reg n = ea) ∧ s.frame t dec [] [] block ∧
      x.keepsMemoryOutside t z (x.storeAddress ea) ∧
      (x.regionOf ea.toNat = .peripheral → x.keepsMemory t) ∧
      (x.plainRam z ea = true → t.stored z ea.toNat = lowPart z v) ∧
      (∀ b, t.byteAt b = u.byteAt b) ∧ u.keepsModules t)

/-- The instruction reads the byte at `ea` and writes it back changed (rules R301, R304, R308, R309, R315). With `holds`
nobody comes between the two accesses; otherwise the CPU comes to the write with the state `y`, which another agent's
write may have changed (rules R113, R135). -/
def ModifiesByte (i : Instr) (s : State) (ea : Word) (f : Word → Word) (bits : List Nat) (holds : Bool)
    (flag : Word → State → Prop) : Prop :=
  ∀ x v u y w, Reaches s ea x → cpuRead x .byte ea = .ok v u →
    (if holds then y = u else between ea u = .go y) → cpuWrite y .byte ea (f v) = .ok () w →
    Runs i s (fun t => flag v t ∧ s.frame t [] bits [] false ∧
      y.keepsMemoryOutside t .byte (y.storeAddress ea) ∧
      (y.plainRam .byte ea = true → t.stored .byte ea.toNat = lowPart .byte (f v)) ∧
      (∀ b, t.byteAt b = w.byteAt b) ∧ w.keepsModules t)

/-- The delayed branch is made: the slot instruction at pc + 2 is next, then `target`; nothing else changes but PR
where the branch saves it (rules R340, R355). -/
def Delays (i : Instr) (s : State) (target : Word) (pr : Word) : Prop :=
  Runs i s (fun t =>
    t.slot = some { branch := s.pc, target := target, prBefore := s.pr, rte := false } ∧ t.pc = s.pc + 2 ∧
      t.pr = pr ∧ t.irqBlock = false ∧ s.keepsRegs t [] ∧ s.keepsSr t [] ∧ s.keepsSpecial t [.pr] ∧
      s.keepsMemory t ∧ s.keepsModules t)

/-- The instruction goes on at an address at once, with no delay slot (rules R341, R343). -/
def GoesTo (i : Instr) (s : State) (target : Word) : Prop :=
  Runs i s (fun t => t.pc = target ∧ t.slot = none ∧ t.irqBlock = false ∧ s.keepsRegs t [] ∧ s.keepsSr t [] ∧
    s.keepsSpecial t [] ∧ s.keepsMemory t ∧ s.keepsModules t)

/-- The instruction ends in the entry for a CPU address error: the saved PC is its own address, or in a delay slot the
branch's, whose PR comes back; in the slot of RTE it stops (rules R352, R383, R424, R442; log entry 13). In the state entered
from only the listed registers, SR bits and special registers of the CPU differ, and memory is as said. -/
def EntersAddressError (i : Instr) (s : State) (regs : List Reg) (bits : List Nat) (specials : List Special)
    (memory : State → Prop) : Prop :=
  (s.slot = none → ∃ e, exec i s = enterAddressError s.pc e ∧ s.keepsRegs e regs ∧ s.keepsSr e bits ∧
    s.keepsSpecial e specials ∧ memory e) ∧
  (∀ d, s.slot = some d → d.rte = false → ∃ e, exec i s = enterAddressError d.branch e ∧ e.pr = d.prBefore ∧
    s.keepsRegs e regs ∧ s.keepsSr e bits ∧ s.keepsSpecial e (.pr :: specials) ∧ memory e) ∧
  (∀ d, s.slot = some d → d.rte = true → exec i s = .fault .exceptionInRteSlot)

/-- When the read at `ea` is an address error, the instruction enters vector 9 with nothing of the CPU updated; what is
listed is open after a misaligned read alone (rules R106, R108, R442; log entries 9 and 10). -/
def ReadError (i : Instr) (s : State) (z : Size) (ea : Word) (regs : List Reg) (bits : List Nat)
    (specials : List Special) : Prop :=
  ∀ x u, Reaches s ea x → cpuRead x z ea = .addressError u →
    EntersAddressError i s (if misaligned z ea then regs else []) (if misaligned z ea then bits else [])
      (if misaligned z ea then specials else []) (fun e => x.keepsMemory e)

/-- The byte of memory at `b` lies behind the address `a` of the address space: RAM; the ROM, or the RAM that RAMER shows
there, or in its window either, and neither while the user boot MAT is shown; the cell of an external device (rules R125,
R126, R545, R692). -/
def State.behind (s : State) (a b : Nat) : Bool :=
  match s.regionOf a with
  | .ram => decide (b = a)
  | .rom =>
    (decide (b = overlayAlias a) && (s.ramerUncertain a || overlays s.flash.ramer a)) ||
      (decide (b = a) && (s.ramerUncertain a || !(overlays s.flash.ramer a)) && decide (s.flash.fmats ≠ 0xAA))
  | .cs0 => decide (b = extCell false a)
  | .cs1 => decide (b = extCell true a)
  | .peripheral | .reserved | .singleChipExternal => false

/-- When the write at `ea` is an address error, the instruction enters vector 9 with nothing of the CPU updated; in memory
the bytes behind the aligned container of a misaligned address are open, and no byte else changes, none at all after an
aligned write (rules R106, R442; log entries 9 and 10). -/
def WriteError (i : Instr) (s : State) (z : Size) (ea v : Word) : Prop :=
  ∀ x u, Reaches s ea x → cpuWrite x z ea v = .addressError u →
    EntersAddressError i s [] [] [] (fun e =>
      (misaligned z ea = false → x.keepsMemory e) ∧
      (misaligned z ea = true → ∀ b, (∀ k, k < z.bytes → x.behind ((container z ea).toNat + k) b = false) →
        e.byteAt b = x.byteAt b))

/-- Nothing comes between the accesses of an exception entry, its stack is two plain longwords of RAM below R15, VBR is a
multiple of 4, and the vector is a plain longword outside them (rules R420, R446, R447). -/
def State.canEnter (s : State) (vec : Nat) : Bool :=
  let v := s.vbr + BitVec.ofNat 32 (4 * vec)
  s.alone && s.plainRam .long (s.reg 15 - 4) && s.plainRam .long (s.reg 15 - 8) && !(misaligned .long s.vbr) &&
    s.plain .long v && decide (v.toNat + 4 ≤ (s.reg 15 - 8).toNat ∨ (s.reg 15 - 4).toNat + 4 ≤ v.toNat)

/-- The exception is entered from `s`: SR and then `saved` are on the stack, R15 lies eight bytes lower, the pc is the
vector's longword, no slot is open and interrupts are acceptable; the other registers and every other byte are unchanged
(rules R420 to R425). SR itself is left to the statement. -/
def State.entered (s t : State) (vec : Nat) (saved : Word) : Prop :=
  t.stored .long (s.reg 15 - 4).toNat = s.sr ∧ t.stored .long (s.reg 15 - 8).toNat = saved ∧
    t.reg 15 = s.reg 15 - 8 ∧ t.pc = s.stored .long (s.vbr + BitVec.ofNat 32 (4 * vec)).toNat ∧
    t.slot = none ∧ t.irqBlock = false ∧ s.keepsRegs t [15] ∧ s.keepsSpecial t [] ∧
    (∀ b, b < (s.reg 15 - 8).toNat ∨ (s.reg 15 - 8).toNat + 8 ≤ b → t.byteAt b = s.byteAt b)

/-- The longword that the `k`th stack write of an exception entry goes to (rules R420, R446). -/
def State.stackSlot (s : State) (k : Nat) : Word := (s.reg 15 - BitVec.ofNat 32 (4 * k)) &&& 0xFFFFFFFC

/-- Nothing comes between the accesses, and the first `n` stack writes go to plain longwords of RAM, R15 aligned or not. -/
def State.stackTakes (s : State) (n : Nat) : Bool :=
  s.alone && (List.range n).all (fun k => s.plainRam .long (s.stackSlot (k + 1)))

/-- R15 is no multiple of 4, the first `n` stack writes go to plain longwords of RAM, VBR is a multiple of 4, and the vector
is a plain longword outside them (rule R446). -/
def State.canEnterAstray (s : State) (n vec : Nat) : Bool :=
  let v := s.vbr + BitVec.ofNat 32 (4 * vec)
  misaligned .long (s.reg 15) && s.stackTakes n && !(misaligned .long s.vbr) && s.plain .long v &&
    decide (v.toNat + 4 ≤ (s.stackSlot n).toNat ∨ (s.stackSlot 1).toNat + 4 ≤ v.toNat)

/-- The handler of a CPU address error is entered from `s` after `n` stack writes at a misaligned R15: R15 has moved down by
them, the pc is vector 9's longword, and all but those `n` longwords is as it was (rule R446). SR is left to the
statement. -/
def State.enteredAstray (s t : State) (n : Nat) : Prop :=
  t.reg 15 = s.reg 15 - BitVec.ofNat 32 (4 * n) ∧ t.pc = s.stored .long (s.vbr + 36).toNat ∧ t.slot = none ∧
    t.irqBlock = false ∧ s.keepsRegs t [15] ∧ s.keepsSpecial t [] ∧
    (∀ b, b < (s.stackSlot n).toNat ∨ (s.stackSlot 1).toNat + 4 ≤ b → t.byteAt b = s.byteAt b)

/-- An instruction is fetched nowhere from an odd address, the peripheral area, or external space in a single-chip mode
(rule R104; rule R441). -/
def State.fetchForbidden (s : State) (a : Word) : Bool :=
  bitOf a 0 || decide (s.regionOf a.toNat = .peripheral) || decide (s.regionOf a.toNat = .singleChipExternal)

/-- The CPU's state is as it was, but for the listed special registers, and so is memory. -/
def State.untouched (s e : State) (specials : List Special) : Prop :=
  e.regs = s.regs ∧ e.sr = s.sr ∧ s.keepsSpecial e specials ∧ s.keepsMemory e

/-- The step is an exception entry that saves the pc, from a state whose CPU and memory are as they were; in the delay slot
of a branch the entry saves the branch's address and PR is as before it, and in the slot of RTE the step stops (rules R352,
R383, R424; log entry 13). -/
def State.stepEnters (s : State) (entry : Word → State → Result) : Prop :=
  (s.slot = none → ∃ e, step s = mapNext settle (entry s.pc e) ∧ s.untouched e []) ∧
  (∀ d, s.slot = some d → d.rte = false →
    ∃ e, step s = mapNext settle (entry d.branch e) ∧ e.pr = d.prBefore ∧ s.untouched e [.pr]) ∧
  (∀ d, s.slot = some d → d.rte = true → step s = .fault .exceptionInRteSlot)

end Sys2Proof.Machine

namespace Sys2Proof

/-- The instructions that rewrite PC, and the two loads of SR: slot illegal in a delay slot (rule R163). -/
def Instr.slotIllegal : Instr → Bool
  | .bf _ | .bfS _ | .bt _ | .btS _ | .bra _ | .braf _ | .bsr _ | .bsrf _ | .jmp _ | .jsr _ | .rts | .rte | .trapa _
  | .ldcSr _ | .ldcLSr _ => true
  | _ => false

/-- The instructions that write SR as a whole (rule R33). -/
def Instr.writesSr : Instr → Bool
  | .ldcSr _ | .ldcLSr _ | .rte => true
  | _ => false

/-- The instructions that write T (rule R33). -/
def Instr.writesT : Instr → Bool
  | .addc _ _ | .addv _ _ | .cmpEqImm _ | .cmpEq _ _ | .cmpHs _ _ | .cmpGe _ _ | .cmpHi _ _ | .cmpGt _ _ | .cmpPl _
  | .cmpPz _ | .cmpStr _ _ | .div1 _ _ | .div0s _ _ | .div0u | .dt _ | .negc _ _ | .subc _ _ | .subv _ _ | .tasB _
  | .tst _ _ | .tstImm _ | .tstB _ | .rotl _ | .rotr _ | .rotcl _ | .rotcr _ | .shal _ | .shar _ | .shll _ | .shlr _
  | .clrt | .sett => true
  | i => i.writesSr

/-- The instructions that write Q (rule R33). -/
def Instr.writesQ : Instr → Bool
  | .div1 _ _ | .div0s _ _ | .div0u => true
  | i => i.writesSr

/-- The instructions that write M (rule R33). -/
def Instr.writesM : Instr → Bool
  | .div0s _ _ | .div0u => true
  | i => i.writesSr

/-- The instructions that write a special register (rules R26 to R29). -/
def Instr.writes (x : Machine.Special) : Instr → Bool
  | .ldcGbr _ | .ldcLGbr _ => decide (x = .gbr)
  | .ldcVbr _ | .ldcLVbr _ => decide (x = .vbr)
  | .ldsMach _ | .ldsLMach _ => decide (x = .mach)
  | .mulL _ _ | .mulsW _ _ | .muluW _ _ | .ldsMacl _ | .ldsLMacl _ => decide (x = .macl)
  | .dmulsL _ _ | .dmuluL _ _ | .macL _ _ | .macW _ _ | .clrmac => decide (x = .mach ∨ x = .macl)
  | .bsr _ | .bsrf _ | .jsr _ | .ldsPr _ | .ldsLPr _ => decide (x = .pr)
  | _ => false

end Sys2Proof
end

