-- ==== Sys2Proof/Certificates/Slice0/Obligations.lean ====
section
/-! DEFINITION. The statements for the provers. -/

open Sys2Proof Sys2Proof.Machine

/-! ## Encoding -/

/-- Decoding the word of a well-formed instruction gives the instruction back, for every instruction and operand. -/
def Obligations.DecodeEncode : Prop := ∀ i : Instr, i.wellFormed = true → decode (encode i) = .ok i

/-- Every word that decodes is the word of the instruction it decodes to, which is well-formed: no bit of a word is
dropped, and no word is read as an instruction it does not spell. -/
def Obligations.EncodeDecode : Prop :=
  ∀ (w : Half) (i : Instr), decode w = .ok i → i.wellFormed = true ∧ encode i = w

/-- A few words of each family, written out from the patterns of tables 2.11 to 2.16. -/
def Obligations.DecodeWords : Prop :=
  decode 0xE180 = .ok (.movImm 0x80 1) ∧ decode 0xD201 = .ok (.movLPc 1 2) ∧ decode 0x2F16 = .ok (.movLStoreDec 1 15) ∧
  decode 0x321E = .ok (.addc 1 2) ∧ decode 0x3214 = .ok (.div1 1 2) ∧ decode 0x421F = .ok (.macW 1 2) ∧
  decode 0xCD0F = .ok (.andB 0x0F) ∧ decode 0x411B = .ok (.tasB 1) ∧ decode 0x4124 = .ok (.rotcl 1) ∧
  decode 0x8F02 = .ok (.bfS 0x02) ∧ decode 0xA7FF = .ok (.bra 0x7FF) ∧ decode 0x410E = .ok (.ldcSr 1) ∧
  decode 0x002B = .ok .rte ∧ decode 0xC320 = .ok (.trapa 0x20)

/-- H'F000 to H'FFFF are the undefined codes that raise an illegal instruction exception (rule R162). That no other word is
one is decision D16, the model's choice with the spec's (log entry 16): of those the manual says only that operation is not
guaranteed. -/
def Obligations.IllegalCodes : Prop := ∀ w : Half, decode w = .error .illegalCode ↔ 0xF000 ≤ w.toNat

/-! ## Data transfer -/

/-- The register forms (rules R201, R204, R236 to R239). The bytes of SWAP.B and the halves of SWAP.W and XTRCT are named
by their bits. -/
def Obligations.RegisterMoves : Prop :=
  ∀ (s : State) (m n : Reg) (imm : BitVec 8),
    Runs (.movImm imm n) s (fun t => (t.reg n).toInt = imm.toInt ∧ s.frameAll t [n] [] [] false) ∧
    Runs (.mov m n) s (fun t => t.reg n = s.reg m ∧ s.frameAll t [n] [] [] false) ∧
    Runs (.movt n) s (fun t => (t.reg n).toNat = (if s.flagT then 1 else 0) ∧ s.frameAll t [n] [] [] false) ∧
    Runs (.swapB m n) s (fun t => (∀ k, k < 8 → bitOf (t.reg n) k = bitOf (s.reg m) (k + 8)) ∧
      (∀ k, 8 ≤ k → k < 16 → bitOf (t.reg n) k = bitOf (s.reg m) (k - 8)) ∧
      (∀ k, 16 ≤ k → bitOf (t.reg n) k = bitOf (s.reg m) k) ∧ s.frameAll t [n] [] [] false) ∧
    Runs (.swapW m n) s (fun t => (∀ k, k < 16 → bitOf (t.reg n) k = bitOf (s.reg m) (k + 16)) ∧
      (∀ k, 16 ≤ k → k < 32 → bitOf (t.reg n) k = bitOf (s.reg m) (k - 16)) ∧ s.frameAll t [n] [] [] false) ∧
    Runs (.xtrct m n) s (fun t => (∀ k, k < 16 → bitOf (t.reg n) k = bitOf (s.reg n) (k + 16)) ∧
      (∀ k, 16 ≤ k → k < 32 → bitOf (t.reg n) k = bitOf (s.reg m) (k - 16)) ∧ s.frameAll t [n] [] [] false)

/-- The loads from a register's address: indirect, post-increment, with displacement, indexed, and from GBR (rules R208
to R210, R214 to R216, R220 to R222, R226 to R228, R232 to R234). That a post-increment load into its own address
register leaves the loaded value there is the model's choice (log entry 12). -/
def Obligations.RegisterLoads : Prop :=
  ∀ (s : State) (m n : Reg) (d : Nat),
    Loads (.movBLoad m n) s .byte (s.reg m) n [] ∧ Loads (.movWLoad m n) s .word (s.reg m) n [] ∧
    Loads (.movLLoad m n) s .long (s.reg m) n [] ∧ Loads (.movBLoadInc m n) s .byte (s.reg m) n [m] ∧
    Loads (.movWLoadInc m n) s .word (s.reg m) n [m] ∧ Loads (.movLLoadInc m n) s .long (s.reg m) n [m] ∧
    Loads (.movBLoadDisp d m) s .byte (s.reg m + BitVec.ofNat 32 d) 0 [] ∧
    Loads (.movWLoadDisp d m) s .word (s.reg m + BitVec.ofNat 32 (2 * d)) 0 [] ∧
    Loads (.movLLoadDisp d m n) s .long (s.reg m + BitVec.ofNat 32 (4 * d)) n [] ∧
    Loads (.movBLoadIdx m n) s .byte (s.reg 0 + s.reg m) n [] ∧
    Loads (.movWLoadIdx m n) s .word (s.reg 0 + s.reg m) n [] ∧
    Loads (.movLLoadIdx m n) s .long (s.reg 0 + s.reg m) n [] ∧
    Loads (.movBLoadGbr d) s .byte (s.gbr + BitVec.ofNat 32 d) 0 [] ∧
    Loads (.movWLoadGbr d) s .word (s.gbr + BitVec.ofNat 32 (2 * d)) 0 [] ∧
    Loads (.movLLoadGbr d) s .long (s.gbr + BitVec.ofNat 32 (4 * d)) 0 []

/-- The PC-relative forms outside a delay slot, from the instruction's address plus 4, masked for longwords and MOVA
(rules R202, R203, R235). In a delay slot rule R157 gives them no meaning, and each stops: that stop is decision D14, the
model's choice (log entry 15). -/
def Obligations.PcRelative : Prop :=
  ∀ (s : State) (n : Reg) (d : Nat),
    (s.slot = none →
      Loads (.movWPc d n) s .word (s.pc + 4 + BitVec.ofNat 32 (2 * d)) n [] ∧
      Loads (.movLPc d n) s .long (((s.pc + 4) >>> 2 <<< 2) + BitVec.ofNat 32 (4 * d)) n [] ∧
      Runs (.mova d) s (fun t => t.reg 0 = ((s.pc + 4) >>> 2 <<< 2) + BitVec.ofNat 32 (4 * d) ∧
        s.frameAll t [0] [] [] false)) ∧
    (s.slot ≠ none → exec (.movWPc d n) s = .fault .pcRelativeInDelaySlot ∧
      exec (.movLPc d n) s = .fault .pcRelativeInDelaySlot ∧ exec (.mova d) s = .fault .pcRelativeInDelaySlot)

/-- The stores (rules R205 to R207, R211 to R213, R217 to R219, R223 to R225, R229 to R231). That a
pre-decrement form of one register stores it as it was before the instruction is the model's choice (log entry 12). -/
def Obligations.MoveStores : Prop :=
  ∀ (s : State) (m n : Reg) (d : Nat),
    Stores (.movBStore m n) s .byte (s.reg n) (s.reg m) [] false ∧
    Stores (.movWStore m n) s .word (s.reg n) (s.reg m) [] false ∧
    Stores (.movLStore m n) s .long (s.reg n) (s.reg m) [] false ∧
    Stores (.movBStoreDec m n) s .byte (s.reg n - 1) (s.reg m) [n] false ∧
    Stores (.movWStoreDec m n) s .word (s.reg n - 2) (s.reg m) [n] false ∧
    Stores (.movLStoreDec m n) s .long (s.reg n - 4) (s.reg m) [n] false ∧
    Stores (.movBStoreDisp d n) s .byte (s.reg n + BitVec.ofNat 32 d) (s.reg 0) [] false ∧
    Stores (.movWStoreDisp d n) s .word (s.reg n + BitVec.ofNat 32 (2 * d)) (s.reg 0) [] false ∧
    Stores (.movLStoreDisp m d n) s .long (s.reg n + BitVec.ofNat 32 (4 * d)) (s.reg m) [] false ∧
    Stores (.movBStoreIdx m n) s .byte (s.reg 0 + s.reg n) (s.reg m) [] false ∧
    Stores (.movWStoreIdx m n) s .word (s.reg 0 + s.reg n) (s.reg m) [] false ∧
    Stores (.movLStoreIdx m n) s .long (s.reg 0 + s.reg n) (s.reg m) [] false ∧
    Stores (.movBStoreGbr d) s .byte (s.gbr + BitVec.ofNat 32 d) (s.reg 0) [] false ∧
    Stores (.movWStoreGbr d) s .word (s.gbr + BitVec.ofNat 32 (2 * d)) (s.reg 0) [] false ∧
    Stores (.movLStoreGbr d) s .long (s.gbr + BitVec.ofNat 32 (4 * d)) (s.reg 0) [] false

/-! ## Memory -/

/-- Plain memory can be accessed: a plain operand reads as its stored bytes and the read changes no byte of memory and no
register of the CPU; a plain operand in RAM takes a write (rules R101, R104, R110). With nothing listed to come between, the
CPU comes to an access with its own state. -/
def Obligations.PlainAccess : Prop :=
  ∀ (s : State) (z : Size) (a v : Word),
    (s.proc = .run → s.alone = true → Reaches s a s) ∧
    (s.plain z a = true → ∃ u, cpuRead s z a = .ok (s.stored z a.toNat) u ∧ s.keepsMemory u ∧ u.regs = s.regs) ∧
    (s.plainRam z a = true → ∃ u, cpuWrite s z a v = .ok () u ∧ u.stored z a.toNat = lowPart z v ∧
      s.keepsMemoryOutside u z a.toNat ∧ u.regs = s.regs)

/-- Byte order is big-endian in every state (rules R101, R102, R110): a plain operand, one in on-chip ROM or RAM, reads as
its bytes at rising addresses, the most significant first, and a store leaves them so. -/
def Obligations.BigEndian : Prop :=
  ∀ (s : State) (a v : Word),
    (s.plain .long a = true → ∃ u, cpuRead s .long a =
      .ok (s.byteAt a.toNat ++ s.byteAt (a.toNat + 1) ++ s.byteAt (a.toNat + 2) ++ s.byteAt (a.toNat + 3)) u) ∧
    (s.plain .word a = true → ∃ u, cpuRead s .word a =
      .ok ((s.byteAt a.toNat ++ s.byteAt (a.toNat + 1)).setWidth 32) u) ∧
    (s.plain .byte a = true → ∃ u, cpuRead s .byte a = .ok ((s.byteAt a.toNat).setWidth 32) u) ∧
    (s.plainRam .long a = true → ∃ u, cpuWrite s .long a v = .ok () u ∧ u.byteAt a.toNat = v.extractLsb' 24 8 ∧
      u.byteAt (a.toNat + 1) = v.extractLsb' 16 8 ∧ u.byteAt (a.toNat + 2) = v.extractLsb' 8 8 ∧
      u.byteAt (a.toNat + 3) = v.extractLsb' 0 8) ∧
    (s.plainRam .word a = true → ∃ u, cpuWrite s .word a v = .ok () u ∧ u.byteAt a.toNat = v.extractLsb' 8 8 ∧
      u.byteAt (a.toNat + 1) = v.extractLsb' 0 8) ∧
    (s.plainRam .byte a = true → ∃ u, cpuWrite s .byte a v = .ok () u ∧ u.byteAt a.toNat = v.extractLsb' 0 8)

/-- A misaligned access of the CPU is an address error, and so is every access to external space in a single-chip mode
(rule R104 checks 1 and 2; that alignment is checked first is decision D5, log entry 22). This is about the bus access
alone: the instruction whose write is misaligned then leaves the aligned container open (rule R106, log entry 9; stated in
AddressErrorEntry). -/
def Obligations.AddressErrors : Prop :=
  ∀ (s : State) (z : Size) (a v : Word),
    (a.toNat % z.bytes ≠ 0 ∨ (s.mode.singleChip = true ∧ 0x02000000 ≤ a.toNat ∧ a.toNat < 0x08000000)) →
      (∃ u, cpuRead s z a = .addressError u ∧ s.keepsMemory u ∧ u.regs = s.regs) ∧
      (∃ u, cpuWrite s z a v = .addressError u ∧ s.keepsMemory u ∧ u.regs = s.regs)

/-- An instruction whose access is an address error enters vector 9 with nothing of the CPU updated: no post-increment, no
pre-decrement, no accumulator, no system register (rules R108, R424, R442). Every form that accesses memory is listed, each
outside and inside a delay slot where it may stand there. Of what the spec leaves open these are the model's choices:
that all else is kept is decision D7 (log entry 10); that the destination of a misaligned read is open, MACH, MACL, PR and T
apart, and the aligned container of a misaligned write, in every region of memory, is decision D6 (log entry 9); that a slot
saves the branch with PR as before it is decision D18, and that the slot of RTE stops is U5 (log entry 13). -/
def Obligations.AddressErrorEntry : Prop :=
  ∀ (s : State) (m n : Reg) (imm : BitVec 8) (d : Nat),
    let load (i : Instr) (z : Size) (ea : Word) (n : Reg) : Prop := ReadError i s z ea [n] [] []
    let into (i : Instr) (x : List Special) : Prop := ReadError i s .long (s.reg m) [] [] x
    let byteForm (i : Instr) : Prop := ReadError i s .byte (s.reg 0 + s.gbr) [] [] []
    let push (i : Instr) (v : Word) : Prop := WriteError i s .long (s.reg n - 4) v
    -- the loads
    (load (.movBLoad m n) .byte (s.reg m) n ∧ load (.movWLoad m n) .word (s.reg m) n ∧
      load (.movLLoad m n) .long (s.reg m) n ∧ load (.movBLoadInc m n) .byte (s.reg m) n ∧
      load (.movWLoadInc m n) .word (s.reg m) n ∧ load (.movLLoadInc m n) .long (s.reg m) n ∧
      load (.movBLoadDisp d m) .byte (s.reg m + BitVec.ofNat 32 d) 0 ∧
      load (.movWLoadDisp d m) .word (s.reg m + BitVec.ofNat 32 (2 * d)) 0 ∧
      load (.movLLoadDisp d m n) .long (s.reg m + BitVec.ofNat 32 (4 * d)) n ∧
      load (.movBLoadIdx m n) .byte (s.reg 0 + s.reg m) n ∧ load (.movWLoadIdx m n) .word (s.reg 0 + s.reg m) n ∧
      load (.movLLoadIdx m n) .long (s.reg 0 + s.reg m) n ∧
      load (.movBLoadGbr d) .byte (s.gbr + BitVec.ofNat 32 d) 0 ∧
      load (.movWLoadGbr d) .word (s.gbr + BitVec.ofNat 32 (2 * d)) 0 ∧
      load (.movLLoadGbr d) .long (s.gbr + BitVec.ofNat 32 (4 * d)) 0) ∧
    (s.slot = none →
      load (.movWPc d n) .word (s.pc + 4 + BitVec.ofNat 32 (2 * d)) n ∧
      load (.movLPc d n) .long (((s.pc + 4) >>> 2 <<< 2) + BitVec.ofNat 32 (4 * d)) n ∧
      (s.srOk = true → ReadError (.ldcLSr m) s .long (s.reg m) [] [1, 4, 5, 6, 7, 8, 9] []) ∧
      ReadError .rte s .long (s.reg 15) [] [] []) ∧
    -- the system registers, MAC, and the byte forms
    (into (.ldcLGbr m) [.gbr] ∧ into (.ldcLVbr m) [.vbr] ∧ into (.ldsLMach m) [] ∧ into (.ldsLMacl m) [] ∧
      into (.ldsLPr m) []) ∧
    (ReadError (.macW m n) s .word (s.reg n) [] [] [] ∧ ReadError (.macL m n) s .long (s.reg n) [] [] [] ∧
      (∀ z x a u, Reaches s (s.reg n) x → cpuRead x z (s.reg n) = .ok a u →
        let ea := if m = n then s.reg m + BitVec.ofNat 32 z.bytes else s.reg m
        ∀ y w, Reaches u ea y → cpuRead y z ea = .addressError w →
          (z = .word → EntersAddressError (.macW m n) s [] [] [] (fun e => y.keepsMemory e)) ∧
          (z = .long → EntersAddressError (.macL m n) s [] [] [] (fun e => y.keepsMemory e)))) ∧
    (byteForm (.andB imm) ∧ byteForm (.orB imm) ∧ byteForm (.xorB imm) ∧ byteForm (.tstB imm) ∧
      ReadError (.tasB n) s .byte (s.reg n) [] [] []) ∧
    -- the stores
    (WriteError (.movBStore m n) s .byte (s.reg n) (s.reg m) ∧ WriteError (.movWStore m n) s .word (s.reg n) (s.reg m) ∧
      WriteError (.movLStore m n) s .long (s.reg n) (s.reg m) ∧
      WriteError (.movBStoreDec m n) s .byte (s.reg n - 1) (s.reg m) ∧
      WriteError (.movWStoreDec m n) s .word (s.reg n - 2) (s.reg m) ∧
      WriteError (.movLStoreDec m n) s .long (s.reg n - 4) (s.reg m) ∧
      WriteError (.movBStoreDisp d n) s .byte (s.reg n + BitVec.ofNat 32 d) (s.reg 0) ∧
      WriteError (.movWStoreDisp d n) s .word (s.reg n + BitVec.ofNat 32 (2 * d)) (s.reg 0) ∧
      WriteError (.movLStoreDisp m d n) s .long (s.reg n + BitVec.ofNat 32 (4 * d)) (s.reg m) ∧
      WriteError (.movBStoreIdx m n) s .byte (s.reg 0 + s.reg n) (s.reg m) ∧
      WriteError (.movWStoreIdx m n) s .word (s.reg 0 + s.reg n) (s.reg m) ∧
      WriteError (.movLStoreIdx m n) s .long (s.reg 0 + s.reg n) (s.reg m) ∧
      WriteError (.movBStoreGbr d) s .byte (s.gbr + BitVec.ofNat 32 d) (s.reg 0) ∧
      WriteError (.movWStoreGbr d) s .word (s.gbr + BitVec.ofNat 32 (2 * d)) (s.reg 0) ∧
      WriteError (.movLStoreGbr d) s .long (s.gbr + BitVec.ofNat 32 (4 * d)) (s.reg 0)) ∧
    (push (.stcLSr n) s.sr ∧ push (.stcLGbr n) s.gbr ∧ push (.stcLVbr n) s.vbr ∧ push (.stsLMach n) s.mach ∧
      push (.stsLMacl n) s.macl ∧ push (.stsLPr n) s.pr)

/-- The address space of the 512 KB, 16 KB part, area by area, in the six modes of rule R124: with ROM in modes 2, 3, 5, 6
and 7, where H'02000000 to H'07FFFFFF is CS0 and CS1 space or, in modes 3 and 7, forbidden, and without it in mode 0 (rules
R118 to R124). That the areas from the end of ROM to H'01FFFFFF and from H'08000000 on are reserved in a single-chip mode,
and not external, is decision D5 (R122), the model's choice with the spec's (log entry 22). -/
def Obligations.AddressMap : Prop :=
  ∀ (p : Part) (m : Mode) (a : Nat), p.rom = .kb512 → p.ram = .kb16 → a < 2 ^ 32 →
    m ∈ [Mode.mode0, .mode2, .mode3, .mode5, .mode6, .mode7] →
    (0x08000000 ≤ a → a < 0xFFFF8000 → region p m a = .reserved) ∧
    (0xFFFF8000 ≤ a → a < 0xFFFFC000 → region p m a = .ram) ∧
    (0xFFFFC000 ≤ a → region p m a = .peripheral) ∧
    (m = .mode0 → (a < 0x04000000 → region p m a = .cs0) ∧
      (0x04000000 ≤ a → a < 0x08000000 → region p m a = .cs1)) ∧
    (m ≠ .mode0 → (a < 0x80000 → region p m a = .rom) ∧ (0x80000 ≤ a → a < 0x02000000 → region p m a = .reserved)) ∧
    (m = .mode3 ∨ m = .mode7 → 0x02000000 ≤ a → a < 0x08000000 → region p m a = .singleChipExternal) ∧
    (m = .mode2 ∨ m = .mode5 ∨ m = .mode6 → (0x02000000 ≤ a → a < 0x04000000 → region p m a = .cs0) ∧
      (0x04000000 ≤ a → a < 0x08000000 → region p m a = .cs1))

/-! ## Arithmetic -/

/-- Addition and subtraction with their carries, borrows and overflows, against the exact sum or difference (rules R251
to R254, R279 to R283). That ADDV and SUBV set T for a signed overflow in either direction is from general knowledge (log
entry 21). -/
def Obligations.AddSubtract : Prop :=
  ∀ (s : State) (m n : Reg) (imm : BitVec 8),
    Runs (.add m n) s (fun t => (t.reg n).toNat = ((s.reg n).toNat + (s.reg m).toNat) % 2 ^ 32 ∧
      s.frameAll t [n] [] [] false) ∧
    Runs (.addImm imm n) s (fun t => (t.reg n).toInt = ((s.reg n).toInt + imm.toInt).bmod (2 ^ 32) ∧
      s.frameAll t [n] [] [] false) ∧
    Runs (.addc m n) s (fun t => (t.reg n).toNat + 2 ^ 32 * bit t.flagT =
        (s.reg n).toNat + (s.reg m).toNat + bit s.flagT ∧ s.frameAll t [n] [0] [] false) ∧
    Runs (.addv m n) s (fun t => (t.reg n).toInt = ((s.reg n).toInt + (s.reg m).toInt).bmod (2 ^ 32) ∧
      (t.flagT = true ↔ (s.reg n).toInt + (s.reg m).toInt < -(2 ^ 31) ∨
        2 ^ 31 - 1 < (s.reg n).toInt + (s.reg m).toInt) ∧ s.frameAll t [n] [0] [] false) ∧
    Runs (.sub m n) s (fun t => ((t.reg n).toNat + (s.reg m).toNat) % 2 ^ 32 = (s.reg n).toNat ∧
      s.frameAll t [n] [] [] false) ∧
    Runs (.subc m n) s (fun t => (t.reg n).toNat + (s.reg m).toNat + bit s.flagT =
        (s.reg n).toNat + 2 ^ 32 * bit t.flagT ∧ s.frameAll t [n] [0] [] false) ∧
    Runs (.subv m n) s (fun t => (t.reg n).toInt = ((s.reg n).toInt - (s.reg m).toInt).bmod (2 ^ 32) ∧
      (t.flagT = true ↔ (s.reg n).toInt - (s.reg m).toInt < -(2 ^ 31) ∨
        2 ^ 31 - 1 < (s.reg n).toInt - (s.reg m).toInt) ∧ s.frameAll t [n] [0] [] false) ∧
    Runs (.neg m n) s (fun t => ((t.reg n).toNat + (s.reg m).toNat) % 2 ^ 32 = 0 ∧ s.frameAll t [n] [] [] false) ∧
    Runs (.negc m n) s (fun t => (t.reg n).toNat + (s.reg m).toNat + bit s.flagT = 2 ^ 32 * bit t.flagT ∧
      s.frameAll t [n] [0] [] false)

/-- The comparisons write T and nothing else (rules R255 to R263); CMP/STR compares byte by
byte (from general knowledge: log entry 21). -/
def Obligations.Comparisons : Prop :=
  ∀ (s : State) (m n : Reg) (imm : BitVec 8),
    let Sets (i : Instr) (p : Prop) : Prop := Runs i s (fun t => (t.flagT = true ↔ p) ∧ s.frameAll t [] [0] [] false)
    Sets (.cmpEqImm imm) ((s.reg 0).toInt = imm.toInt) ∧
    Sets (.cmpEq m n) (s.reg n = s.reg m) ∧
    Sets (.cmpHs m n) ((s.reg m).toNat ≤ (s.reg n).toNat) ∧
    Sets (.cmpGe m n) ((s.reg m).toInt ≤ (s.reg n).toInt) ∧
    Sets (.cmpHi m n) ((s.reg m).toNat < (s.reg n).toNat) ∧
    Sets (.cmpGt m n) ((s.reg m).toInt < (s.reg n).toInt) ∧
    Sets (.cmpPl n) (0 < (s.reg n).toInt) ∧
    Sets (.cmpPz n) (bitOf (s.reg n) 31 = false) ∧
    Sets (.cmpStr m n) (∃ b, b < 4 ∧ ∀ k, k < 8 → bitOf (s.reg n) (8 * b + k) = bitOf (s.reg m) (8 * b + k))

/-- The division steps: the two initialisations (rules R265, R266), and one step of DIV1 on the partial remainder shifted
left with T (rule R264, from general knowledge: log entry 20). With `v` the shifted remainder's low word: the new Rn is
`v` minus the divisor when Q = M and plus it otherwise, and the new Q is the bit shifted out, the borrow or carry, and M
added without carry. -/
def Obligations.DivisionSteps : Prop :=
  ∀ (s : State) (m n : Reg),
    Runs .div0u s (fun t => t.flagM = false ∧ t.flagQ = false ∧ t.flagT = false ∧ s.frameAll t [] [0, 8, 9] [] false) ∧
    Runs (.div0s m n) s (fun t => (t.flagQ = true ↔ (s.reg n).toInt < 0) ∧ (t.flagM = true ↔ (s.reg m).toInt < 0) ∧
      (t.flagT = true ↔ t.flagM ≠ t.flagQ) ∧ s.frameAll t [] [0, 8, 9] [] false) ∧
    Runs (.div1 m n) s (fun t =>
      let v := (2 * (s.reg n).toNat + bit s.flagT) % 2 ^ 32
      (t.flagT = true ↔ t.flagQ = t.flagM) ∧ t.flagM = s.flagM ∧
      (s.flagQ = s.flagM → ∃ borrow, (t.reg n).toNat + (s.reg m).toNat = v + 2 ^ 32 * bit borrow ∧
        bit t.flagQ = (bit (bitOf (s.reg n) 31) + bit borrow + bit s.flagM) % 2) ∧
      (s.flagQ ≠ s.flagM → ∃ carry, (t.reg n).toNat + 2 ^ 32 * bit carry = v + (s.reg m).toNat ∧
        bit t.flagQ = (bit (bitOf (s.reg n) 31) + bit carry + bit s.flagM) % 2) ∧
      s.frameAll t [n] [0, 8] [] false)

/-- The products (rules R267, R268, R276 to R278): the 64-bit ones and the 16-bit ones are exact, and MUL.L keeps the low
32 bits; MACH is written only by the 64-bit ones. -/
def Obligations.Products : Prop :=
  ∀ (s : State) (m n : Reg),
    Runs (.dmulsL m n) s (fun t => t.mac.toInt = (s.reg n).toInt * (s.reg m).toInt ∧
      s.frameAll t [] [] [.mach, .macl] false) ∧
    Runs (.dmuluL m n) s (fun t => t.mac.toNat = (s.reg n).toNat * (s.reg m).toNat ∧
      s.frameAll t [] [] [.mach, .macl] false) ∧
    Runs (.mulL m n) s (fun t => t.macl.toNat = (s.reg n).toNat * (s.reg m).toNat % 2 ^ 32 ∧
      s.frameAll t [] [] [.macl] false) ∧
    Runs (.mulsW m n) s (fun t => t.macl.toInt = ((s.reg n).setWidth 16).toInt * ((s.reg m).setWidth 16).toInt ∧
      s.frameAll t [] [] [.macl] false) ∧
    Runs (.muluW m n) s (fun t => t.macl.toNat = ((s.reg n).toNat % 2 ^ 16) * ((s.reg m).toNat % 2 ^ 16) ∧
      s.frameAll t [] [] [.macl] false)

/-- MAC.L and MAC.W: the Rn operand is read first, both registers are advanced (one register twice), and the accumulator
takes the sum; with S = 0 modulo 2 to the 64 (rules R274, R275). `x` and `y` are the states the CPU comes to the two reads
with (rule R132). With S = 1 MAC.L saturates to 48 bits, and MAC.W saturates MACL and then sets bit 0 of MACH (from
general knowledge: log entry 19). That one register in both places, m = n, is stepped twice with the second operand read at
its first step is U21 and decision D13, from general knowledge too (log entry 19); the order of the reads is log entry 12.
These clauses are the model's choice. -/
def Obligations.MultiplyAccumulate : Prop :=
  ∀ (s x u y w : State) (m n : Reg) (a b : Word),
    let Sum (z : Size) (i : Instr) (p : Int) : Prop :=
      let second := if m = n then s.reg m + BitVec.ofNat 32 z.bytes else s.reg m
      Reaches s (s.reg n) x → cpuRead x z (s.reg n) = .ok a u → Reaches u second y → cpuRead y z second = .ok b w →
      Runs i s (fun t =>
        (m ≠ n → t.reg m = s.reg m + BitVec.ofNat 32 z.bytes ∧ t.reg n = s.reg n + BitVec.ofNat 32 z.bytes) ∧
        (m = n → t.reg n = s.reg n + BitVec.ofNat 32 (2 * z.bytes)) ∧
        (s.flagS = false → t.mac.toInt = (s.mac.toInt + p).bmod (2 ^ 64)) ∧
        (s.flagS = true → z = .long → t.mac.toInt = max (-(2 ^ 47)) (min (2 ^ 47 - 1) (s.mac.toInt + p))) ∧
        (s.flagS = true → z = .word →
          t.macl.toInt = max (-(2 ^ 31)) (min (2 ^ 31 - 1) (s.macl.toInt + p)) ∧
          (t.macl.toInt = s.macl.toInt + p → t.mach = s.mach) ∧
          (t.macl.toInt ≠ s.macl.toInt + p → t.mach = s.mach ||| 1)) ∧
        s.frame t [m, n] [] [.mach, .macl] false ∧ y.keepsMemory t ∧ w.keepsModules t)
    Sum .long (.macL m n) (a.toInt * b.toInt) ∧
    Sum .word (.macW m n) ((a.setWidth 16).toInt * (b.setWidth 16).toInt)

/-- DT, the sign extensions and the zero extensions, each from its word: the pattern of its rule with n in bits 11 to 8
and m in bits 7 to 4 (rules R269 to R273). -/
def Obligations.CountAndExtend : Prop :=
  ∀ (s : State) (m n : Reg),
    let word (pattern : Half) (mField : Reg) : Half := pattern ||| (n.setWidth 16 <<< 8) ||| (mField.setWidth 16 <<< 4)
    (decode (word 0x4010 0) = .ok (.dt n) ∧
      Runs (.dt n) s (fun t => t.reg n + 1 = s.reg n ∧ (t.flagT = true ↔ t.reg n = 0) ∧
        s.frameAll t [n] [0] [] false)) ∧
    (decode (word 0x600E m) = .ok (.extsB m n) ∧
      Runs (.extsB m n) s (fun t => (t.reg n).toInt = ((s.reg m).setWidth 8).toInt ∧ s.frameAll t [n] [] [] false)) ∧
    (decode (word 0x600F m) = .ok (.extsW m n) ∧
      Runs (.extsW m n) s (fun t => (t.reg n).toInt = ((s.reg m).setWidth 16).toInt ∧ s.frameAll t [n] [] [] false)) ∧
    (decode (word 0x600C m) = .ok (.extuB m n) ∧
      Runs (.extuB m n) s (fun t => (t.reg n).toNat = (s.reg m).toNat % 2 ^ 8 ∧ s.frameAll t [n] [] [] false)) ∧
    (decode (word 0x600D m) = .ok (.extuW m n) ∧
      Runs (.extuW m n) s (fun t => (t.reg n).toNat = (s.reg m).toNat % 2 ^ 16 ∧ s.frameAll t [n] [] [] false))

/-! ## Logic and shifts -/

/-- The register and immediate forms of the logic instructions, bit by bit; an immediate has zeros above bit 7 (rules
R302, R303, R305 to R307, R310, R311, R313, R314). -/
def Obligations.LogicRegisters : Prop :=
  ∀ (s : State) (m n : Reg) (imm : BitVec 8),
    let Bits (i : Instr) (d : Reg) (f : Nat → Bool) : Prop :=
      Runs i s (fun t => (∀ k, k < 32 → bitOf (t.reg d) k = f k) ∧ s.frameAll t [d] [] [] false)
    Bits (.andReg m n) n (fun k => bitOf (s.reg n) k && bitOf (s.reg m) k) ∧
    Bits (.andImm imm) 0 (fun k => bitOf (s.reg 0) k && bitOf imm k) ∧
    Bits (.orReg m n) n (fun k => bitOf (s.reg n) k || bitOf (s.reg m) k) ∧
    Bits (.orImm imm) 0 (fun k => bitOf (s.reg 0) k || bitOf imm k) ∧
    Bits (.xorReg m n) n (fun k => bitOf (s.reg n) k != bitOf (s.reg m) k) ∧
    Bits (.xorImm imm) 0 (fun k => bitOf (s.reg 0) k != bitOf imm k) ∧
    Bits (.notReg m n) n (fun k => !(bitOf (s.reg m) k)) ∧
    Runs (.tst m n) s (fun t => (t.flagT = true ↔ ∀ k, k < 32 → (bitOf (s.reg n) k && bitOf (s.reg m) k) = false) ∧
      s.frameAll t [] [0] [] false) ∧
    Runs (.tstImm imm) s (fun t => (t.flagT = true ↔ ∀ k, k < 8 → (bitOf (s.reg 0) k && bitOf imm k) = false) ∧
      s.frameAll t [] [0] [] false)

/-- The byte forms of the logic instructions at GBR + R0, TST.B, and TAS.B, which sets T from the byte read and writes it
with bit 7 set (rules R301, R304, R308, R309, R312, R315). Between the two accesses of AND.B, OR.B and XOR.B another agent
may come; between those of TAS.B nobody can (rules R113, R135). -/
def Obligations.LogicBytes : Prop :=
  ∀ (s : State) (n : Reg) (imm : BitVec 8),
    ModifiesByte (.andB imm) s (s.reg 0 + s.gbr) (fun v => v &&& imm.setWidth 32) [] false (fun _ _ => True) ∧
    ModifiesByte (.orB imm) s (s.reg 0 + s.gbr) (fun v => v ||| imm.setWidth 32) [] false (fun _ _ => True) ∧
    ModifiesByte (.xorB imm) s (s.reg 0 + s.gbr) (fun v => v ^^^ imm.setWidth 32) [] false (fun _ _ => True) ∧
    ModifiesByte (.tasB n) s (s.reg n) (fun v => v ||| 0x80) [0] true (fun v t => t.flagT = true ↔ v = 0) ∧
    (∀ x v u, Reaches s (s.reg 0 + s.gbr) x → cpuRead x .byte (s.reg 0 + s.gbr) = .ok v u →
      Runs (.tstB imm) s (fun t => (t.flagT = true ↔ v &&& imm.setWidth 32 = 0) ∧ s.frame t [] [0] [] false ∧
        x.keepsMemory t ∧ u.keepsModules t))

/-- The one-bit shifts and rotates, against the numbers they stand for: the bit shifted out is in T (rules R321 to R328).
A left shift doubles, a right shift halves rounding down, a rotate brings the bit back at the other end. The shifts by 2,
8 and 16 drop the bits shifted out and leave SR (rules R329 to R334). -/
def Obligations.Shifts : Prop :=
  ∀ (s : State) (n : Reg),
    let v := s.reg n
    let To (i : Instr) (q : State → Prop) : Prop := Runs i s (fun t => q t ∧ s.frameAll t [n] [0] [] false)
    let Wide (i : Instr) (x : Nat) : Prop := Runs i s (fun t => (t.reg n).toNat = x ∧ s.frameAll t [n] [] [] false)
    To (.shll n) (fun t => (t.reg n).toNat + 2 ^ 32 * bit t.flagT = 2 * v.toNat) ∧
    To (.shal n) (fun t => (t.reg n).toNat + 2 ^ 32 * bit t.flagT = 2 * v.toNat) ∧
    To (.shlr n) (fun t => 2 * (t.reg n).toNat + bit t.flagT = v.toNat) ∧
    To (.shar n) (fun t => 2 * (t.reg n).toInt + bit t.flagT = v.toInt) ∧
    To (.rotl n) (fun t => (t.reg n).toNat + 2 ^ 32 * bit t.flagT = 2 * v.toNat + bit t.flagT) ∧
    To (.rotr n) (fun t => 2 * (t.reg n).toNat + bit t.flagT = v.toNat + 2 ^ 32 * bit t.flagT) ∧
    To (.rotcl n) (fun t => (t.reg n).toNat + 2 ^ 32 * bit t.flagT = 2 * v.toNat + bit s.flagT) ∧
    To (.rotcr n) (fun t => 2 * (t.reg n).toNat + bit t.flagT = v.toNat + 2 ^ 32 * bit s.flagT) ∧
    Wide (.shll2 n) (v.toNat * 4 % 2 ^ 32) ∧ Wide (.shlr2 n) (v.toNat / 4) ∧
    Wide (.shll8 n) (v.toNat * 256 % 2 ^ 32) ∧ Wide (.shlr8 n) (v.toNat / 256) ∧
    Wide (.shll16 n) (v.toNat * 65536 % 2 ^ 32) ∧ Wide (.shlr16 n) (v.toNat / 65536)

/-! ## Branches -/

/-- BF and BT outside a delay slot: taken at once, or on to the next instruction (rules R341, R343, R354). -/
def Obligations.PlainBranches : Prop :=
  ∀ (s : State) (d : BitVec 8), s.slot = none →
    let target := s.pc + 4 + BitVec.ofInt 32 (2 * d.toInt)
    (s.flagT = false → GoesTo (.bf d) s target ∧ GoesTo (.bt d) s (s.pc + 2)) ∧
    (s.flagT = true → GoesTo (.bf d) s (s.pc + 2) ∧ GoesTo (.bt d) s target)

/-- The delayed branches outside a delay slot: the slot instruction is next and then the target; BSR, BSRF and JSR leave
the address after the slot in PR (rules R340, R342, R344 to R351, R354). That a branch reads its register and writes PR
before its slot is decision D15 with U25 and U26, from general knowledge (log entry 12); that a BF/S or BT/S not taken opens
no slot is decision D17 (log entry 13). -/
def Obligations.DelayedBranches : Prop :=
  ∀ (s : State) (m : Reg) (d : BitVec 8) (e : BitVec 12), s.slot = none →
    let near := s.pc + 4 + BitVec.ofInt 32 (2 * d.toInt)
    let far := s.pc + 4 + BitVec.ofInt 32 (2 * e.toInt)
    (s.flagT = false → Delays (.bfS d) s near s.pr ∧ GoesTo (.btS d) s (s.pc + 2)) ∧
    (s.flagT = true → GoesTo (.bfS d) s (s.pc + 2) ∧ Delays (.btS d) s near s.pr) ∧
    Delays (.bra e) s far s.pr ∧ Delays (.braf m) s (s.pc + 4 + s.reg m) s.pr ∧
    Delays (.bsr e) s far (s.pc + 4) ∧ Delays (.bsrf m) s (s.pc + 4 + s.reg m) (s.pc + 4) ∧
    Delays (.jmp m) s (s.reg m) s.pr ∧ Delays (.jsr m) s (s.reg m) (s.pc + 4) ∧ Delays .rts s s.pr s.pr

/-- A PC-rewriting instruction in a delay slot is not executed: vector 6 is entered with the delayed branch's address
saved (rules R163, R424, R451). That PR is as it was before the branch is decision D18, and that the slot of RTE stops is U5
of the spec treated as a fault (rules R352, R383; log entry 13): both are the model's choice. In the state entered from,
`e`, every register but PR, and memory, are those of the slot. -/
def Obligations.SlotIllegal : Prop :=
  ∀ (i : Instr) (s : State) (d : DelaySlot), i.slotIllegal = true → s.slot = some d →
    (d.rte = false → ∃ e, exec i s = enter 6 d.branch none e ∧ e.pr = d.prBefore ∧ e.regs = s.regs ∧ e.sr = s.sr ∧
      s.keepsSpecial e [.pr] ∧ s.keepsMemory e) ∧
    (d.rte = true → exec i s = .fault .exceptionInRteSlot)

/-! ## System control -/

/-- CLRT, SETT, CLRMAC and NOP, each from its word (rules R361 to R364). -/
def Obligations.PlainControl : Prop :=
  decode 0x0008 = .ok .clrt ∧ decode 0x0018 = .ok .sett ∧ decode 0x0028 = .ok .clrmac ∧ decode 0x0009 = .ok .nop ∧
  ∀ s : State,
    Runs .clrt s (fun t => t.flagT = false ∧ s.frameAll t [] [0] [] false) ∧
    Runs .sett s (fun t => t.flagT = true ∧ s.frameAll t [] [0] [] false) ∧
    Runs .clrmac s (fun t => t.mach = 0 ∧ t.macl = 0 ∧ s.frameAll t [] [] [.mach, .macl] false) ∧
    Runs .nop s (fun t => s.frameAll t [] [] [] false)

/-- The loads of the control and system registers from a register; SR only outside a delay slot. Each blocks interrupts at
the next boundary (rules R365 to R367, R371 to R373, R436). That SR takes its implemented bits only, H'3F3, is decision D3
(rule R25; log entry 8). -/
def Obligations.LoadControl : Prop :=
  ∀ (s : State) (m : Reg),
    let Into (i : Instr) (x : Special) : Prop :=
      Runs i s (fun t => t.special x = s.reg m ∧ s.frameAll t [] [] [x] true)
    (s.slot = none → Runs (.ldcSr m) s (fun t => t.sr = s.reg m &&& 0x3F3 ∧
      s.frameAll t [] [0, 1, 2, 3, 4, 5, 6, 7, 8, 9, 10, 11, 12, 13, 14, 15, 16, 17, 18, 19, 20, 21, 22, 23, 24, 25, 26,
        27, 28, 29, 30, 31] [] true)) ∧
    Into (.ldcGbr m) .gbr ∧ Into (.ldcVbr m) .vbr ∧ Into (.ldsMach m) .mach ∧ Into (.ldsMacl m) .macl ∧
    Into (.ldsPr m) .pr

/-- The loads of the control and system registers from memory with post-increment (rules R368 to R370, R374 to R376). That
SR takes its implemented bits only, H'3F3, is decision D3 (rule R25; log entry 8). -/
def Obligations.LoadControlFromMemory : Prop :=
  ∀ (s x u : State) (m : Reg) (v : Word), Reaches s (s.reg m) x → cpuRead x .long (s.reg m) = .ok v u →
    let Into (i : Instr) (r : Special) : Prop :=
      Runs i s (fun t => t.special r = v ∧ t.reg m = s.reg m + 4 ∧ s.frame t [m] [] [r] true ∧ x.keepsMemory t ∧
        u.keepsModules t)
    (s.slot = none → Runs (.ldcLSr m) s (fun t => t.sr = v &&& 0x3F3 ∧ t.reg m = s.reg m + 4 ∧ s.keepsRegs t [m] ∧
      s.keepsSpecial t [] ∧ s.movesOn t true ∧ x.keepsMemory t ∧ u.keepsModules t)) ∧
    Into (.ldcLGbr m) .gbr ∧ Into (.ldcLVbr m) .vbr ∧ Into (.ldsLMach m) .mach ∧ Into (.ldsLMacl m) .macl ∧
    Into (.ldsLPr m) .pr

/-- The stores of the control and system registers to a register (rules R377 to R379, R384 to R386). -/
def Obligations.StoreControl : Prop :=
  ∀ (s : State) (n : Reg),
    let From (i : Instr) (v : Word) : Prop := Runs i s (fun t => t.reg n = v ∧ s.frameAll t [n] [] [] true)
    From (.stcSr n) s.sr ∧ From (.stcGbr n) s.gbr ∧ From (.stcVbr n) s.vbr ∧ From (.stsMach n) s.mach ∧
    From (.stsMacl n) s.macl ∧ From (.stsPr n) s.pr

/-- The stores of the control and system registers to memory with pre-decrement (rules R380 to R382, R387 to R389). -/
def Obligations.StoreControlToMemory : Prop :=
  ∀ (s : State) (n : Reg),
    Stores (.stcLSr n) s .long (s.reg n - 4) s.sr [n] true ∧ Stores (.stcLGbr n) s .long (s.reg n - 4) s.gbr [n] true ∧
    Stores (.stcLVbr n) s .long (s.reg n - 4) s.vbr [n] true ∧
    Stores (.stsLMach n) s .long (s.reg n - 4) s.mach [n] true ∧
    Stores (.stsLMacl n) s .long (s.reg n - 4) s.macl [n] true ∧ Stores (.stsLPr n) s .long (s.reg n - 4) s.pr [n] true

/-- SLEEP within its preconditions: sleep mode with STBY = 0, software standby with STBY = 1 and STBYMD = 1, both with
the CPU's registers kept; deep software standby with STBYMD = 0, in which SR, its mask too, is a free value but for the
reserved bits (rules R390, R620, R622, R624, R627, U9). Outside each of them
it stops: that stop is decision D19. That the pc has moved on is U28 of the spec. Both are the model's choice (log
entry 18). So is that the power cut of deep software standby leaves open what an external write in progress stores (log
entry 54). -/
def Obligations.Sleep : Prop :=
  ∀ s : State,
    let stops : Prop := exec .sleep s = .fault .sleepPrecondition
    (s.bsc.released = true → stops) ∧
    (s.bsc.released = false → bitOf s.power.stbcr1 7 = false →
      (s.sleepMeasure = true → Runs .sleep s (fun t => t.proc = .sleep ∧ s.frame t [] [] [] false ∧ s.keepsMemory t)) ∧
      (s.sleepMeasure = false → stops)) ∧
    (s.bsc.released = false → bitOf s.power.stbcr1 7 = true → bitOf s.power.stbcr6 1 = true →
      (s.sleepMeasure = true → s.softwareStandbyReady = true →
        Runs .sleep s (fun t => t.proc = .standby false ∧ t.cmt = Cmt.reset ∧ s.frame t [] [] [] false ∧
          s.keepsMemory t)) ∧
      (s.sleepMeasure = false ∨ s.softwareStandbyReady = false → stops)) ∧
    (s.bsc.released = false → bitOf s.power.stbcr1 7 = true → bitOf s.power.stbcr6 1 = false →
      (s.standbyReady = true →
        Runs .sleep s (fun t => t.proc = .deep ∧ t.intc = Intc.reset ∧ t.dtc = Dtc.reset ∧ t.bsc = Bsc.reset ∧
          t.power = Power.reset ∧ (∃ n, t.sr = Config.freeWord n &&& 0x3F3) ∧ ∀ a, a < s.part.ramBase →
            (∀ w, s.bsc.extWrite = some w → a < w.cell ∨ w.cell + w.size.bytes ≤ a) → t.byteAt a = s.byteAt a)) ∧
      (s.standbyReady = false → stops))

/-! ## Exceptions -/

/-- TRAPA outside a delay slot enters its vector with the next instruction's address saved and SR unchanged (rules R391,
R420, R424, R425). -/
def Obligations.Trap : Prop :=
  ∀ (s : State) (imm : BitVec 8), s.slot = none → s.canEnter imm.toNat = true →
    Runs (.trapa imm) s (fun t => s.entered t imm.toNat (s.pc + 2) ∧ t.sr = s.sr)

/-- Taking an exception saves SR and the given address, and nothing else of the CPU changes but R15, the pc and, for an
interrupt, the mask, whose saved copy is the old one (rules R420 to R422, R425, R426); so does the entry of a CPU address
error, vector 9. With a misaligned R15 two longwords are written with open data and the address error entry follows with two
more, after a CPU address error it does not (rules R445, R446; that the entry of vector 9 is not followed is log entry 25).
With a misaligned VBR the entry stops after its stack writes, which is decision D22, the model's choice with the spec's (R447;
log entry 25). A step at a pc from which nothing can be fetched is the entry of vector 9 (rule R441); that it comes before any
request of the same boundary is decision D20, the spec's own reading in R433 (log entry 23). In a delay slot PR is back as
before the branch, decision D18, and the slot of RTE stops, U5 (log entry 13). -/
def Obligations.ExceptionEntry : Prop :=
  (∀ (s : State) (vec : Nat) (saved : Word) (level : Option Nat),
    let mask (t : State) : Prop :=
      (level = none → t.sr = s.sr) ∧ (∀ l, level = some l → t.mask = l % 16 ∧ s.keepsSr t [4, 5, 6, 7])
    (s.canEnter vec = true → ∃ t, enter vec saved level s = .next t ∧ s.entered t vec saved ∧ mask t) ∧
    (s.canEnter 9 = true → ∃ t, enterAddressError saved s = .next t ∧ s.entered t 9 saved ∧ t.sr = s.sr) ∧
    (s.canEnterAstray 4 vec = true → s.canEnterAstray 4 9 = true →
      ∃ t, enter vec saved level s = .next t ∧ s.enteredAstray t 4 ∧ mask t) ∧
    (s.canEnterAstray 2 9 = true → ∃ t, enterAddressError saved s = .next t ∧ s.enteredAstray t 2 ∧ t.sr = s.sr) ∧
    (s.stackTakes 2 = true → misaligned .long s.vbr = true →
      enter vec saved level s = .fault .vbrMisaligned ∧ enterAddressError saved s = .fault .vbrMisaligned)) ∧
  (∀ s : State, s.cpuNext = true → s.fetchForbidden s.pc = true → s.stepEnters enterAddressError)

/-- RTE outside a delay slot, from a stack of plain longwords: PC and SR come from the stack, R15 moves up eight bytes,
and PR is not touched (rules R383, R423). That SR is restored before the slot instruction, which is next, is U27 of the
spec, from general knowledge (log entry 13); that SR takes its implemented bits only, H'3F3, is decision D3 (log
entry 8). -/
def Obligations.ReturnFromException : Prop :=
  ∀ s : State, s.slot = none → s.proc = .run → s.alone = true → s.plain .long (s.reg 15) = true →
    s.plain .long (s.reg 15 + 4) = true →
    Runs .rte s (fun t =>
      t.slot = some { branch := s.pc, target := s.stored .long (s.reg 15).toNat, prBefore := s.pr, rte := true } ∧
      t.pc = s.pc + 2 ∧ t.sr = s.stored .long (s.reg 15 + 4).toNat &&& 0x3F3 ∧ t.reg 15 = s.reg 15 + 8 ∧
      t.irqBlock = false ∧ s.keepsRegs t [15] ∧ s.keepsSpecial t [] ∧ s.keepsMemory t)

/-- A trap and the return from its handler: RTE, executed in any state that kept the handler's entry state's memory and
R15, puts R15, SR and the continuation address back. That SR is back at RTE itself, before its slot, is U27 of the spec (log
entry 13). -/
def Obligations.TrapThenReturn : Prop :=
  ∀ (s t h : State) (imm : BitVec 8), s.slot = none → s.srOk = true → s.canEnter imm.toNat = true →
    exec (.trapa imm) s = .next t → h.slot = none → h.proc = .run → h.alone = true → h.reg 15 = t.reg 15 →
    (∀ a, h.byteAt a = t.byteAt a) → h.plain .long (h.reg 15) = true → h.plain .long (h.reg 15 + 4) = true →
    Runs .rte h (fun r => r.sr = s.sr ∧ r.reg 15 = s.reg 15 ∧
      ∃ d, r.slot = some d ∧ d.target = s.pc + 2)

/-- The reset exception sequence (rule R414), while no external master has the bus: PC and R15 come from the longwords at vectors 0 and 1, or 2 and 3 for a
manual reset, VBR is 0, the mask is 15 and SR's reserved bits 0, and program execution starts; nothing is pushed, and the
other registers are not written. -/
def Obligations.ResetSequence : Prop :=
  ∀ (s u w : State) (k : ResetKind) (newPc newSp : Word), s.cpuTurn = true → s.proc = .resetEntry k →
    s.bsc.released = false →
    cpuRead s.atCpuStep .long (BitVec.ofNat 32 (4 * k.vector)) = .ok newPc u →
    cpuRead u .long (BitVec.ofNat 32 (4 * k.vector + 4)) = .ok newSp w →
    ∃ t, step s = .next t ∧ t.pc = newPc ∧ t.reg 15 = newSp ∧ t.vbr = 0 ∧ t.mask = 15 ∧ t.srOk = true ∧
      t.proc = .run ∧ t.slot = none ∧ t.irqBlock = false ∧ s.keepsRegs t [15] ∧ s.keepsSpecial t [.vbr] ∧
      s.keepsMemory t

/-- What the spec gives for reset in State.reset: the interrupt mask is 15, SR's reserved bits are 0, VBR is 0 (rules R24,
R27, R32), and every register of the modules in the scope reads its initial value of the register map in mode 3, but for the
bits whose value a pin or nothing gives (rules R74, R75, R77, R83 to R85, R88 to R90, R471, R473, R541 to R549, R558, R559,
R591, R603, R614 to R619, R636, R641). -/
def Obligations.ResetValues : Prop :=
  let s := State.reset
  s.mask = 15 ∧ s.srOk = true ∧ s.vbr = 0 ∧ s.slot = none ∧ s.irqBlock = false ∧
  (∀ r ∈ regsCore ++ regsFlash,
    (regRead r.id (lowBytes r.bytes) s).1 &&& BitVec.ofNat 32 r.known = BitVec.ofNat 32 (r.initial .mode3 &&& r.known)) ∧
  s.intc.irqcr = 0 ∧ s.intc.ipra = 0 ∧ s.intc.iprm = 0 ∧ s.cpg.frqcr = 0x36DB ∧ s.bsc.cmncr = 0x1010 ∧
  s.bsc.cs0bcr = 0x36DB0600 ∧ s.bsc.cs1wcr = 0x500 ∧ s.dtc.dtcera = 0 ∧ s.dtc.dtcvbr = 0 ∧ s.wdt.wtcnt = 0 ∧
  s.wdt.wtcsr = 0 ∧ s.cmt.ch0.cmcnt = 0 ∧ s.cmt.ch1.cmcor = 0xFFFF ∧ s.power.stbcr2 = 0x38 ∧ s.power.stbcr3 = 0xFF ∧
  s.power.stbcr5 = 0x03 ∧ s.power.ramcr = 0x10 ∧ s.flash.ramer = 0 ∧ s.aud.auecsr = 1

/-! ## The step -/

/-- A step runs the decoded instruction. Between instructions, with no request to accept, the step is `exec` of the
instruction at pc in the state after its fetch, then the windows of rules R690 to R692 count and the bus and the DTC's
queue are settled; in a delay slot it is so whatever exception is requested (rules R352, R433, R437). -/
def Obligations.StepRunsDecoded : Prop :=
  ∀ (s u : State) (w : Half) (i : Instr), s.cpuNext = true →
    (s.slot = none → intcSelect s.atBoundary = none → s.dtc.addressError = false →
      fetchHalf s.atBoundary s.pc = .ok w u →
      decode w = .ok i → step s = mapNext (fun t => settle (tickWindows t)) (exec i (ubcMark u))) ∧
    (s.slot ≠ none → fetchHalf s.atCpuStep s.pc = .ok w u →
      decode w = .ok i → step s = mapNext (fun t => settle (tickWindows t)) (exec i u))

/-- After an interrupt-disabling instruction no interrupt is accepted: not NMI, not a held user break, not an IRQ or
peripheral request. The next instruction runs (rule R436), unless a DTC address error waits, which InterruptAccepted is
about. -/
def Obligations.InterruptsBlocked : Prop :=
  ∀ (s u : State) (w : Half) (i : Instr), s.cpuNext = true → s.slot = none → s.irqBlock = true →
    s.dtc.addressError = false → fetchHalf s.atBoundary s.pc = .ok w u → decode w = .ok i →
    step s = mapNext (fun t => settle (tickWindows t)) (exec i (ubcMark u))

/-- Otherwise the interrupt that the INTC presents, a held user break among them, replaces the decoded instruction: its
vector is entered with the instruction's address saved and its level, 15 for NMI, in the mask; its latch is cleared (rules
R424, R425, R432, R433, R482). A DTC address error that waits comes before all of them but the user break, whatever the mask
and after an interrupt-disabling instruction too: vector 10 is entered with the mask unchanged, and it waits no longer (rules
R432, R444; that the saved PC is the next instruction is decision D21, the model's choice with the spec's, log entry 23). -/
def Obligations.InterruptAccepted : Prop :=
  ∀ (s u : State) (w : Half) (i : Instr), s.cpuNext = true → s.slot = none →
    fetchHalf s.atBoundary s.pc = .ok w u → decode w = .ok i →
    (∀ v l, s.irqBlock = false → intcSelect s.atBoundary = some (v, l) → v = 12 ∨ s.dtc.addressError = false →
      step s = mapNext settle (enter v s.pc (some (min l 15)) (acknowledge v u))) ∧
    (s.dtc.addressError = true →
      s.irqBlock = true ∨ s.atBoundary.ubc.live.pending = false ∨ s.mask = 15 →
      step s = mapNext settle (enter 10 s.pc none { u with dtc := { u.dtc with addressError := false } }))

/-- The undefined codes H'F000 to H'FFFF enter vector 4 with their own address saved, and in a delay slot vector 6 with the
branch's (rules R162, R424, R433, R450, R451). That every other undefined code stops, in a slot too, is decision D16 (log
entry 16; rule R453), that an illegal code comes before an interrupt of the same boundary is decision D20 (log entry 23), and
that PR is back in a slot and the slot of RTE stops are D18 and U5 (log entry 13): all are the model's choice. -/
def Obligations.UndefinedCodeStep : Prop :=
  ∀ (s u : State) (w : Half), s.cpuNext = true →
    fetchHalf (if s.slot.isSome then s.atCpuStep else s.atBoundary) s.pc = .ok w u →
    (decode w = .error .illegalCode →
      s.stepEnters (fun pc e => enter (if s.slot.isSome then 6 else 4) pc none e)) ∧
    (decode w = .error .undefinedCode → step s = .fault .undefinedOpcode)

/-- The three kinds of user break, with channel A alone set for an exact address. Before execution: a fetch of the CPU on
the L bus at pc breaks before the instruction when the mask is below 15, with vector 12, the instruction's address saved and
mask 15. After execution (PCBA = 1): the instruction runs with the flag set and the break requested; InterruptAccepted says
how a boundary takes it, where the UBC matches the fetch of neither that instruction nor the next.
Data: an L-bus access at the address sets the flag and requests the break, and one of another longword does not (rules
R424, R425, R433, R510 to R514, R516, R518). -/
def Obligations.UserBreaks : Prop :=
  ∀ (s : State), s.ubcOn = true → s.ubc.lag = [] → s.ubc.regs.a.bamr = 0 → s.ubc.regs.b.bbr = 0 →
    (s.cpuTurn = true → s.proc = .run → s.bsc.released = false → s.slot = none →
      bitOf s.pc 0 = false → s.ubc.regs.a.bbr = 0x0054 → s.ubc.regs.a.bar = s.pc →
      (s.ubc.regs.brcr = 0 → s.irqBlock = false → s.mask < 15 →
        ∃ e, step s = mapNext settle (enter 12 s.pc (some 15) e) ∧ e.ubc.live.ca = true ∧ s.untouched e []) ∧
      (s.ubc.regs.brcr = 0x400 → intcSelect s.atBoundary = none → s.dtc.addressError = false →
        ∀ w u i, fetchHalf s.atBoundary s.pc = .ok w u → decode w = .ok i →
          ∃ e, step s = mapNext (fun t => settle (tickWindows t)) (exec i e) ∧ e.ubc.live.ca = true ∧
            e.ubc.live.pending = true ∧ e.pc = s.pc ∧ s.untouched e [])) ∧
    (s.ubc.regs.a.bbr = 0x006C → s.ubc.regs.brcr = 0 →
      ∀ (z : Size) (a v : Word),
        (s.plain z a = true → ∃ u, cpuRead s z a = .ok (s.stored z a.toNat) u ∧
          (s.ubc.regs.a.bar = a → u.ubc.live.ca = true ∧ u.ubc.live.pending = true) ∧
          (s.ubc.regs.a.bar >>> 2 ≠ a >>> 2 → u.ubc.live = s.ubc.live)) ∧
        (s.plainRam z a = true → ∃ u, cpuWrite s z a v = .ok () u ∧
          (s.ubc.regs.a.bar = a → u.ubc.live.ca = true ∧ u.ubc.live.pending = true) ∧
          (s.ubc.regs.a.bar >>> 2 ≠ a >>> 2 → u.ubc.live = s.ubc.live)))

/-- In sleep, standby and the reset states the CPU executes nothing, nor while the bus is released, which before
the reset sequence is the model's choice (rules R36, R37; log entry 40). That its turn then passes to the DTC in one step is log entry 5, the model's choice: R710 asks only that every agent goes on. -/
def Obligations.CpuStopped : Prop :=
  ∀ s : State, s.cpuTurn = true →
    (s.proc = .sleep ∨ (∃ b, s.proc = .standby b) ∨ s.proc = .deep ∨ s.proc = .hardware ∨
      (∃ k, s.proc = .resetHeld k) ∨
      (s.bsc.released = true ∧ (s.proc = .run ∨ ∃ k, s.proc = .resetEntry k))) → step s = .next s.atCpuStep

/-! ## Invariants of the whole machine -/

/-- The reset state has the invariant. -/
def Obligations.ResetInvariant : Prop := State.reset.inv = true

/-- Every step, of the CPU, of the DTC and of every input, keeps the invariant: the canonical form of the memories, SR's
reserved bits, DTCVBR's low bits, and the length of the trace queue. -/
def Obligations.StepKeepsInvariant : Prop := ∀ s t : State, s.inv = true → step s = .next t → t.inv = true

/-- Only the listed instructions write T, S, Q, M and the mask; of all others, exceptions included, each leaves them as they
were, whatever the other agents do between its accesses (rule R33). The premise leaves out the resets that fall into an
instruction and SLEEP into deep software standby, which lose the registers. -/
def Obligations.OnlyTheseWriteFlags : Prop :=
  ∀ (i : Instr) (s t : State), exec i s = .next t → s.proc = .run →
    (t.proc = .run ∨ (i = .sleep ∧ t.proc ≠ .deep)) →
    (i.writesT = false → t.flagT = s.flagT) ∧ (i.writesSr = false → t.flagS = s.flagS) ∧
    (i.writesQ = false → t.flagQ = s.flagQ) ∧ (i.writesM = false → t.flagM = s.flagM) ∧
    (i.writesSr = false → t.mask = s.mask)

/-- Only the listed instructions write GBR, VBR, MACH, MACL and PR; an exception in a delay slot also restores PR
(rules R26 to R29, R421). The resets that fall into an instruction and SLEEP into deep software standby are left out by the
premise. -/
def Obligations.OnlyTheseWriteSpecials : Prop :=
  ∀ (i : Instr) (s t : State) (x : Special), exec i s = .next t → s.proc = .run →
    (t.proc = .run ∨ (i = .sleep ∧ t.proc ≠ .deep)) →
    i.writes x = false → (x = .pr → s.slot = none) → t.special x = s.special x

/-- The part never changes, and the mode only when RES goes high in the power-on reset state (rules R7, R118, R666). -/
def Obligations.ModeLatchedAtReset : Prop :=
  ∀ s t : State, step s = .next t →
    t.part = s.part ∧
      (t.mode ≠ s.mode → s.proc = .resetHeld .powerOn ∧ ∃ rest, s.agenda = .pin .res true :: rest)

/-- The other agents leave the CPU alone: a step that is not the CPU's and does not take it out of program execution changes
no register of the CPU, SR, pc, open slot or interrupt block; and no step of the DTC, no request line and no access of the
debugger or of the external bus master changes the processing state (rules R36, R565, R572, R640). The debugger's accesses are
the bus's: a write of a plain operand in RAM changes that operand alone, a read of a plain operand nothing in memory, and a
misaligned one raises nothing (rule R640). A write of the external bus master, while it has the bus, changes one byte of an
external device, and nothing else, and a read nothing (rules R130, R551). BREQ low between two accesses of one CPU step gives it the bus there, and the CPU waits
until BREQ is high (rule R551). That it acts by single bytes, which its 8-bit bus carries, is log entry 62. -/
def Obligations.AgentsLeaveTheCpu : Prop :=
  (∀ s t : State, s.proc = .run → t.proc = .run →
    ((∃ e rest, s.agenda = e :: rest ∧ e ≠ .cpu) ∨ (s.agenda = [] ∧ s.turn ≠ .cpu)) → step s = .next t →
    t.regs = s.regs ∧ t.sr = s.sr ∧ s.keepsSpecial t [] ∧ t.pc = s.pc ∧ t.slot = s.slot ∧ t.irqBlock = s.irqBlock) ∧
  (∀ (s t : State) (e : Event) (rest : List Event), s.agenda = e :: rest →
    (match e with
      | .dtc _ | .line _ _ | .clockStop | .audRead _ _ | .audWrite _ _ _ | .external _ _ _ => True
      | .cpu | .ptick _ | .pin _ _ => False) →
    step s = .next t → t.proc = s.proc) ∧
  (∀ (s : State) (z : Size) (a v : Word) (rest : List Event), modeRuns s.mode = true → s.audMayAccess = true →
    (s.agenda = .audWrite a z v :: rest → s.plainRam z a = true → ∃ t, step s = .next t ∧
      t.stored z a.toNat = lowPart z v ∧ s.keepsMemoryOutside t z a.toNat ∧ t.regs = s.regs ∧ t.pc = s.pc) ∧
    (s.agenda = .audRead a z :: rest → s.plain z a = true → ∃ t, step s = .next t ∧ s.keepsMemory t ∧
      t.regs = s.regs ∧ t.pc = s.pc) ∧
    ((s.agenda = .audWrite a z v :: rest ∨ s.agenda = .audRead a z :: rest) → misaligned z a = true →
      ∃ t, step s = .next t ∧ s.keepsMemory t ∧ t.regs = s.regs ∧ t.pc = s.pc ∧ t.proc = s.proc)) ∧
  (∀ (s : State) (cs1 : Bool) (a : BitVec 20) (v : Option Byte) (rest : List Event), modeRuns s.mode = true →
    s.agenda = .external cs1 a v :: rest → ∃ t, step s = .next t ∧ t.regs = s.regs ∧ t.pc = s.pc ∧ t.proc = s.proc ∧
      (∀ b, v = some b → s.bsc.released = true → t.byteAt (extCell cs1 a.toNat) = b) ∧
      ∀ x, v = none ∨ s.bsc.released = false ∨ x ≠ extCell cs1 a.toNat → t.byteAt x = s.byteAt x) ∧
  (∀ (s : State) (next : Word) (cs1 : Bool) (a : BitVec 20) (b : Byte), s.proc = .run → s.dtcHold = .free →
    s.inner = [.pin .breq false, .cpu, .external cs1 a (some b), .pin .breq true, .cpu] →
    ∃ t, between next s = .go t ∧ t.inner = [] ∧ t.regs = s.regs ∧ t.pc = s.pc ∧ t.bsc.released = false ∧
      t.byteAt (extCell cs1 a.toNat) = b ∧ ∀ x, x ≠ extCell cs1 a.toNat → t.byteAt x = s.byteAt x)

/-! ## The modules -/

/-- The selection by the INTC (rule R484): the user break while the mask is below 15, else NMI, else the request of the
highest level, of equal levels the first in the order of table 6.3, and that only above the mask; else nothing. -/
def Obligations.HighestPriority : Prop :=
  ∀ s : State,
    let broken := s.ubc.live.pending = true ∧ s.mask < 15
    (broken → intcSelect s = some (12, 15)) ∧
    (¬ broken → s.intc.nmiPending = true → intcSelect s = some (11, 16)) ∧
    (¬ broken → s.intc.nmiPending = false →
      (∀ before r after, intSources = before ++ r :: after → s.cpuRequests r = true →
        (∀ x ∈ before, s.cpuRequests x = true → s.levelOf x < s.levelOf r) →
        (∀ x ∈ after, s.cpuRequests x = true → s.levelOf x ≤ s.levelOf r) →
        intcSelect s = if s.mask < s.levelOf r then some (r.vec, s.levelOf r) else none) ∧
      ((∀ r ∈ intSources, s.cpuRequests r = false) → intcSelect s = none))

/-- Registers of the modules through the bus. A word written to IPRA is what IPRA holds and reads (rules R70, R473). The AUD's
registers take a longword only outside its resets; AUCSR with EN beside BRCR.PCTE is a prohibited setting, and EN turned on
empties the queue the AUD shares with the PC trace; the AUD software reset initialises them (rules R618, R641, R643). None of
this changes a register of the CPU or a byte of memory. That a window register, AUECSR or AUCSR.CLK takes a write while
AUCSR.EN is 1, which R641 forbids with no consequence, and that AUCSR holds the reserved codes of OC, is log entry 57 (DESIGN
CHOICE), that the write of EN beside PCTE stops is log entry 29, and that the masks H'CFF3 and H'24E keep the reserved bits 0
is U7 (log entry 39): all the model's choice. -/
def Obligations.ModuleRegisters : Prop :=
  ∀ (s : State) (v : Word),
    let writes (z : Size) (a : Word) (q : State → Prop) : Prop :=
      ∃ u, cpuWrite s z a v = .ok () u ∧ q u ∧ u.regs = s.regs ∧ s.keepsMemory u
    let reads (a x : Word) : Prop :=
      ∃ u, cpuRead s .long a = .ok x u ∧ u.aud = s.aud ∧ u.regs = s.regs ∧ s.keepsMemory u
    writes .word 0xFFFFE906 (fun u => u.intc.ipra = v.setWidth 16) ∧
    (∃ u, cpuRead s .word 0xFFFFE906 = .ok (s.intc.ipra.setWidth 32) u ∧ u.intc = s.intc ∧ u.regs = s.regs ∧
      s.keepsMemory u) ∧
    (bitOf s.power.stbcr5 1 = false →
      reads 0xFFFFF400 s.aud.aucsr ∧ reads 0xFFFFF404 s.aud.auwasr ∧ reads 0xFFFFF408 s.aud.auwaer ∧
      reads 0xFFFFF40C s.aud.auwbsr ∧ reads 0xFFFFF410 s.aud.auwber ∧ reads 0xFFFFF414 s.aud.auecsr ∧
      (bitOf s.power.stbcr6 7 = true ∧ s.pins.audrst = true →
        writes .long 0xFFFFF404 (fun u => u.aud = { s.aud with auwasr := v }) ∧
        writes .long 0xFFFFF408 (fun u => u.aud = { s.aud with auwaer := v }) ∧
        writes .long 0xFFFFF40C (fun u => u.aud = { s.aud with auwbsr := v }) ∧
        writes .long 0xFFFFF410 (fun u => u.aud = { s.aud with auwber := v }) ∧
        writes .long 0xFFFFF414 (fun u => u.aud = { s.aud with auecsr := (v &&& 0x24E) ||| 1 }) ∧
        (bitOf v 0 = true → s.ubc.regs.pcte = true → cpuWrite s .long 0xFFFFF400 v = .stop .prohibitedSetting) ∧
        (s.ubc.regs.pcte = false → writes .long 0xFFFFF400 (fun u => u.aud = { s.aud with aucsr := v &&& 0xCFF3 } ∧
          (bitOf v 0 = true → bitOf s.aud.aucsr 0 = false → u.ubc.trace = [])))) ∧
      (bitOf s.power.stbcr6 7 = false ∨ s.pins.audrst = false →
        ∀ a ∈ [0xFFFFF400#32, 0xFFFFF404, 0xFFFFF408, 0xFFFFF40C, 0xFFFFF410, 0xFFFFF414],
          writes .long a (fun u => u.aud = s.aud))) ∧
    (bitOf v 7 = false → writes .byte 0xFFFFE80C (fun u => u.aud.aucsr = 0 ∧ u.aud.auecsr = 1 ∧ u.ubc.trace = []))

/-- An edge-sensed IRQ is latched by the edge its sense bits select, falling, rising or both, and by no other level change,
and held until it is accepted; a write of 0 clears it only after it was read as 1 (rules R471, R472, R479). -/
def Obligations.IrqEdgeLatch : Prop :=
  ∀ (s : State) (n : Fin 4) (high : Bool) (v : Half), s.intc.sense n.val ≠ 0 →
    (s.irqFlag n.val = false →
      ((irqPin n.val high s).irqFlag n.val = true ↔
        (s.intc.sense n.val = 1 ∧ bitOf s.pins.irq n.val = true ∧ high = false) ∨
        (s.intc.sense n.val = 2 ∧ bitOf s.pins.irq n.val = false ∧ high = true) ∨
        (s.intc.sense n.val = 3 ∧ bitOf s.pins.irq n.val ≠ high))) ∧
    (s.irqFlag n.val = true → (irqPin n.val high s).irqFlag n.val = true) ∧
    (acknowledge (64 + n.val) s).irqFlag n.val = false ∧
    (s.irqFlag n.val = true →
      ((intcWrite .irqsr v 0xFFFF s).irqFlag n.val = false ↔ (bitOf v n.val = false ∧ bitOf s.intc.irqRead n.val = true)))

/-- The compare match timer on one peripheral clock, each channel alike: a stopped channel holds; a running one counts its
prescaler, and at the count clock it counts up, or, when the counter equals the constant, clears the counter and sets CMF;
(rules R608, R609). That the coincidence of a count clock with the next access, whose outcome R609 decides, is noted in the
state (race) is log entry 34, the model's choice. -/
def Obligations.CompareMatch : Prop :=
  ∀ (s : State) (meets : Bool) (rest : List Event), modeRuns s.mode = true → s.proc = .run →
    s.agenda = .ptick meets :: rest → s.wdt.tme = false → bitOf s.power.stbcr4 5 = false →
    let counts (running : Bool) (c d : CmtChannel) : Prop :=
      (running = false → d = { c with race := none }) ∧
      (running = true → c.prescaler + 1 < cmtPeriod c →
        d.cmcnt = c.cmcnt ∧ d.cmcsr = c.cmcsr ∧ d.prescaler = c.prescaler + 1 ∧ d.race = none) ∧
      (running = true → cmtPeriod c ≤ c.prescaler + 1 →
        d.prescaler = 0 ∧ d.race.isSome = meets ∧
        (c.cmcnt = c.cmcor → d.cmcnt = 0 ∧ bitOf d.cmcsr 7 = true) ∧
        (c.cmcnt ≠ c.cmcor → d.cmcnt = c.cmcnt + 1 ∧ d.cmcsr = c.cmcsr))
    ∃ t, step s = .next t ∧ t.agenda = rest ∧ t.wdt = s.wdt ∧ t.regs = s.regs ∧ t.sr = s.sr ∧ t.pc = s.pc ∧
      counts (bitOf s.cmt.cmstr 0) s.cmt.ch0 t.cmt.ch0 ∧ counts (bitOf s.cmt.cmstr 1) s.cmt.ch1 t.cmt.ch1

/-- An overflow of the watchdog timer: in interval timer mode IOVF is set and the program goes on; in watchdog timer mode,
MRES being high, WOVF is set and the reset that RSTS selects is next. WTCNT is H'00 and every other bit of WTCSR as it was,
also after the reset, and memory is kept but for an external write that the power-on reset cuts (rules R410, R412, R413, R552,
R592, R594 to R596). -/
def Obligations.WatchdogOverflow : Prop :=
  ∀ (s : State) (meets : Bool) (rest : List Event), modeRuns s.mode = true → s.proc = .run →
    s.agenda = .ptick meets :: rest → s.pins.mres = true →
    s.wdt.tme = true → s.wdt.wtcnt = 0xFF → s.wdt.writtenFF = false → wdtPeriod s.wdt ≤ s.wdt.prescaler + 1 →
    ∃ t, step s = .next t ∧ t.wdt.wtcnt = 0 ∧
      (∀ k, k ≠ (if s.wdt.watchdog then 4 else 3) → bitOf t.wdt.wtcsr k = bitOf s.wdt.wtcsr k) ∧
      (s.bsc.extWrite = none → s.keepsMemory t) ∧
      (s.wdt.watchdog = false → bitOf t.wdt.wtcsr 3 = true ∧ t.proc = .run ∧ t.pc = s.pc ∧ s.keepsMemory t) ∧
      (s.wdt.watchdog = true → bitOf t.wdt.wtcsr 4 = true ∧ t.mask = 15 ∧
        (bitOf s.wdt.wtcsr 5 = false → t.proc = .resetEntry .wdtPowerOn ∧ t.intc = Intc.reset ∧ t.cmt = Cmt.reset) ∧
        (bitOf s.wdt.wtcsr 5 = true → t.proc = .resetEntry .wdtManual ∧ t.intc = Intc.reset ∧
          t.bsc.cmncr = s.bsc.cmncr ∧ s.keepsMemory t))

/-- WTCNT takes a word write whose upper byte is H'5A, WTCSR one whose upper byte is H'A5 (rule R593). That every other write,
a wrong key, a byte or a longword, has no effect is decision D36, the model's choice with the spec's (log entry 33). -/
def Obligations.WatchdogKeys : Prop :=
  ∀ (s : State) (v : Word),
    (∃ u, cpuWrite s .word 0xFFFFE810 v = .ok () u ∧ u.wdt.wtcsr = s.wdt.wtcsr ∧
      u.wdt.wtcnt = if v.extractLsb' 8 8 = 0x5A then v.extractLsb' 0 8 else s.wdt.wtcnt) ∧
    (∃ u, cpuWrite s .word 0xFFFFE812 v = .ok () u ∧ u.wdt.wtcnt = s.wdt.wtcnt ∧
      u.wdt.wtcsr = if v.extractLsb' 8 8 = 0xA5 then v.extractLsb' 0 8 else s.wdt.wtcsr) ∧
    (∃ u, cpuWrite s .byte 0xFFFFE810 v = .ok () u ∧ u.wdt = s.wdt) ∧
    (∃ u, cpuWrite s .byte 0xFFFFE812 v = .ok () u ∧ u.wdt = s.wdt) ∧
    (∃ u, cpuWrite s .long 0xFFFFE810 v = .ok () u ∧ u.wdt = s.wdt)

/-- The DTC's normal mode: the addresses step as MRA and MRB say, CRA counts down modulo 2 to the 16, CRB is unchanged,
and the counter has ended when CRA is 0 (rule R566). Its repeat mode keeps its promise for a whole round: after the N data
that CRAH counts, the repeat area's address is its first one again, the other has moved by N data, CRAL is reloaded, and only
the last of the N data reports the reload (rule R567). -/
def Obligations.DtcNormalAndRepeat : Prop :=
  ∀ i : DtcInfo,
    ((afterNormal i).1.sar = dtcStep i.sm i.size i.sar ∧ (afterNormal i).1.dar = dtcStep i.dm i.size i.dar ∧
      (afterNormal i).1.cra.toNat = (i.cra.toNat + 65535) % 65536 ∧ (afterNormal i).1.crb = i.crb ∧
      ((afterNormal i).2 = true ↔ i.cra = 1) ∧
      (∀ z a, dtcStep 0 z a = a ∧ dtcStep 1 z a = a ∧ (dtcStep 2 z a - a).toNat = z.bytes ∧
        (a - dtcStep 3 z a).toNat = z.bytes)) ∧
    (i.cral = i.cra.extractLsb' 8 8 →
      let after (k : Nat) : DtcInfo := (fun j => (afterRepeat j).1)^[k] i
      let done := after i.length
      (i.dts = true → done.sar = i.sar) ∧ (i.dts = false → done.dar = i.dar) ∧
      (i.dts = true → i.dm = 2 → done.dar - i.dar = BitVec.ofNat 32 (i.length * i.size.bytes)) ∧
      (i.dts = false → i.sm = 2 → done.sar - i.sar = BitVec.ofNat 32 (i.length * i.size.bytes)) ∧
      done.cra = i.cra ∧ done.crb = i.crb ∧ done.mra = i.mra ∧ done.mrb = i.mrb ∧
      (∀ k, k < i.length → ((afterRepeat (after k)).2 = true ↔ k + 1 = i.length)))

/-- The DTC's block mode keeps its promise for a whole block: after N data with both addresses stepped, the block area's
address is its first one again, the other has moved by N data, CRAL is reloaded and CRB counted down (rule R568). After a
block's write-back the chain goes on at the next 16 bytes where CHNE and CHNS say so, and otherwise the activation ends: the
source's DTCE bit, and no other, is cleared where the CPU is interrupted, else its flag, with every DTCE bit kept; an NMI
stops it with neither (rules R569, R570, R576). The model's choices among these, with the spec's: that a CMI's flag is cleared
at the end of every activation that does not interrupt the CPU is decision D37 (log entry 24), that an NMI leaves the flags,
the request lines and the DTCE bits and lets no chained block follow is decision D38 (log entries 24 and 52), and the limit of
a chain, below which the clause of the chain speaks, is Config.dtcChainLimit (P7; log entry 24). -/
def Obligations.DtcBlockAndEnd : Prop :=
  (∀ i : DtcInfo,
    let once (j : DtcInfo) : DtcInfo := j.stepBoth.withCral (j.cral - 1)
    let done := (afterBlock (once^[i.length] i)).1
    (i.dts = true → done.sar = i.sar) ∧ (i.dts = false → done.dar = i.dar) ∧
    (i.dts = true → i.dm = 2 → (done.dar - i.dar) = BitVec.ofNat 32 (i.length * i.size.bytes)) ∧
    (i.dts = false → i.sm = 2 → (done.sar - i.sar) = BitVec.ofNat 32 (i.length * i.size.bytes)) ∧
    done.cral = i.cra.extractLsb' 8 8 ∧ done.crb + 1 = i.crb ∧ done.mra = i.mra ∧ done.mrb = i.mrb) ∧
  (∀ (a : DtcActivity) (s : State),
    let i := a.info
    let goesOn : Prop := i.chne = true ∧ (i.chns = true → a.zero = true ∧ (i.mode = 1 → s.dtc.rchne = true))
    let interrupts : Prop := i.disel = true ∨ (i.mode ≠ 1 ∧ a.zero = true)
    let keepsEnables (t : State) : Prop := t.dtc.dtcera = s.dtc.dtcera ∧ t.dtc.dtcerb = s.dtc.dtcerb ∧
      t.dtc.dtcerc = s.dtc.dtcerc ∧ t.dtc.dtcerd = s.dtc.dtcerd ∧ t.dtc.dtcere = s.dtc.dtcere
    let keepsFlags (t : State) : Prop := t.intc = s.intc ∧ t.cmt = s.cmt ∧ t.lines = s.lines
    (a.stopping = true → ∃ t, finishBlock a s = .ok t ∧ t.dtc.activity = none ∧ keepsFlags t ∧ keepsEnables t) ∧
    (a.stopping = false → goesOn → a.chained < Config.dtcChainLimit → ∃ t, finishBlock a s = .ok t ∧
      t.dtc.activity =
        some { a with base := a.base + 16, phase := .info 0, chained := a.chained + 1, hold := .free } ∧
      keepsFlags t ∧ keepsEnables t) ∧
    (a.stopping = false → ¬ goesOn → ∃ t, finishBlock a s = .ok t ∧ t.dtc.activity = none ∧
      (interrupts → keepsFlags t ∧
        (∀ r, sourceOf a.vec = some r → r.dtce ≠ none → t.dtceOf r = false) ∧
        ∀ q : IntSource, (∀ r, sourceOf a.vec = some r → r.dtce ≠ q.dtce) → t.dtceOf q = s.dtceOf q) ∧
      (¬ interrupts → keepsEnables t ∧
        (∀ n : Fin 4, a.vec = 64 + n.val → bitOf t.intc.irqF n.val = false) ∧
        (a.vec = 184 → bitOf t.cmt.ch0.cmcsr 7 = false) ∧ (a.vec = 188 → bitOf t.cmt.ch1.cmcsr 7 = false))))

/-- A register of a module whose clock is stopped cannot be accessed: a word access to CMCSR_0 with MSTP21 = 1 stops (that
stop is decision D30, the spec's and the model's choice; rule R626). With the clock on it reads CMCSR_0, and a write puts
CMIE and CKS there and clears CMF only where it was read as 1 (rules R605, R606). -/
def Obligations.ModuleStandby : Prop :=
  ∀ (s : State) (v : Word),
    (bitOf s.power.stbcr4 5 = true → cpuRead s .word 0xFFFFCE02 = .stop .moduleStopped ∧
      cpuWrite s .word 0xFFFFCE02 v = .stop .moduleStopped) ∧
    (bitOf s.power.stbcr4 5 = false →
      (∃ u, cpuRead s .word 0xFFFFCE02 = .ok (s.cmt.ch0.cmcsr.setWidth 32) u ∧ u.regs = s.regs ∧ s.keepsMemory u) ∧
      (∃ u, cpuWrite s .word 0xFFFFCE02 v = .ok () u ∧ u.regs = s.regs ∧ s.keepsMemory u ∧
        (∀ k, k = 0 ∨ k = 1 ∨ k = 6 → bitOf u.cmt.ch0.cmcsr k = bitOf v k) ∧
        (bitOf u.cmt.ch0.cmcsr 7 = true ↔
          bitOf s.cmt.ch0.cmcsr 7 = true ∧ (bitOf v 7 = true ∨ s.cmt.ch0.cmfRead = false))))

/-- RES low begins a power-on reset from any state with HSTBY high: the modules have their initial values, and memory is
kept but for an external write that is cut. MRES low begins a manual reset, which initialises the INTC and keeps the DTC's
and BSC's registers, the timers and memory. Either also ends an instruction between two of its accesses. HSTBY low is
hardware standby, in which SR, its mask too, is a free value but for the reserved bits; HSTBY high with RES low leaves it for
the power-on reset state, in which the mask is 15 and VBR 0 (rules R36, R411, R413, R415, R552, R626, U9). In software and deep
software standby MRES low begins the manual reset or leaves the mode on, the modules' power-down registers and memory kept: that
a free choice decides is the model's choice between R36 and rules R623 and R625 (log entry 45, DESIGN CHOICE). -/
def Obligations.ResetPins : Prop :=
  ∀ (s : State) (rest : List Event),
    (modeRuns s.mode = true → s.agenda = .pin .res false :: rest → s.pins.hstby = true →
      s.proc ≠ .resetHeld .powerOn → ∃ t, step s = .next t ∧ t.proc = .resetHeld .powerOn ∧ t.intc = Intc.reset ∧
      t.wdt = Wdt.reset ∧ t.cmt = Cmt.reset ∧ t.cpg = Cpg.reset ∧ t.power = Power.reset ∧ t.bsc.cmncr = 0x1010 ∧
      t.mask = 15 ∧ (s.bsc.extWrite = none → s.keepsMemory t) ∧
      (∀ w, s.bsc.extWrite = some w → s.keepsMemoryOutside t w.size w.cell)) ∧
    (modeRuns s.mode = true → s.agenda = .pin .mres false :: rest → s.pins.res = true →
      (s.proc = .run ∨ s.proc = .sleep ∨ ∃ k, s.proc = .resetEntry k) → ∃ t, step s = .next t ∧
      t.proc = .resetHeld .manual ∧ t.intc = Intc.reset ∧ t.wdt = s.wdt ∧ t.cmt = (clearRaces s).cmt ∧
      t.cpg = s.cpg ∧ t.power = s.power ∧ t.bsc.cmncr = s.bsc.cmncr ∧ t.dtc.dtcera = s.dtc.dtcera ∧
      t.dtc.dtcvbr = s.dtc.dtcvbr ∧ t.mask = 15 ∧ s.keepsMemory t) ∧
    (modeRuns s.mode = true → s.agenda = .pin .mres false :: rest → s.pins.res = true →
      (s.proc = .deep ∨ ∃ b, s.proc = .standby b) → ∃ t, step s = .next t ∧ t.power = s.power ∧ s.keepsMemory t ∧
      (t.proc = s.proc ∧ t.sr = s.sr ∧ t.vbr = s.vbr ∧ t.regs = s.regs ∨
        t.proc = .resetHeld .manual ∧ t.intc = Intc.reset ∧ t.mask = 15 ∧ t.vbr = 0)) ∧
    (s.proc = .run → ∀ a,
      (s.inner = .pin .res false :: rest → s.pins.hstby = true →
        ∃ t, between a s = .abandoned t ∧ t.proc = .resetHeld .powerOn) ∧
      (s.inner = .pin .mres false :: rest → s.pins.res = true →
        ∃ t, between a s = .abandoned t ∧ t.proc = .resetHeld .manual)) ∧
    (modeRuns s.mode = true → s.agenda = .pin .hstby false :: rest → s.proc ≠ .hardware →
      ∃ t, step s = .next t ∧ t.proc = .hardware ∧ ∃ n, t.sr = Config.freeWord n &&& 0x3F3) ∧
    (modeRuns s.mode = true → s.agenda = .pin .hstby true :: rest → s.proc = .hardware → s.pins.res = false →
      ∃ t, step s = .next t ∧ t.proc = .resetHeld .powerOn ∧ t.mask = 15 ∧ t.vbr = 0)

/-- Software standby is left by the selected NMI edge: the settling count starts with the request latched, and at its
overflow, MRES being high, program execution goes on at the same pc (rules R477, R597, R623). That WTCNT is then 0 and WTCSR
is unchanged is decision D31 (log entry 33), the model's choice. -/
def Obligations.StandbyWake : Prop :=
  ∀ (s : State) (high meets : Bool) (rest : List Event), modeRuns s.mode = true →
    (s.proc = .standby false → s.agenda = .pin .nmi high :: rest → nmiEdge s.intc.nmie s.pins.nmi high = true →
      ∃ t, step s = .next t ∧ t.proc = .standby true ∧ t.intc.nmiPending = true ∧ t.regs = s.regs ∧ t.pc = s.pc) ∧
    (s.proc = .standby true → s.agenda = .ptick meets :: rest → s.wdt.wtcnt = 0xFF → s.pins.mres = true →
      wdtPeriod s.wdt ≤ s.wdt.prescaler + 1 →
      ∃ t, step s = .next t ∧ t.proc = .run ∧ t.wdt.wtcnt = 0 ∧ t.wdt.wtcsr = s.wdt.wtcsr ∧ t.pc = s.pc ∧
        t.intc = s.intc)
end

