-- ==== Sys2Proof/Laws/State.lean ====
section
/-! SUPPORT. One lemma per field per update of the state record, so that no proof unfolds an update; and the register
file and the flags under the updates. -/

namespace Sys2Proof.Machine

@[simp] theorem State.setReg_sr (s : State) (n : Reg) (v : Word) : (s.setReg n v).sr = s.sr := rfl
@[simp] theorem State.setReg_gbr (s : State) (n : Reg) (v : Word) : (s.setReg n v).gbr = s.gbr := rfl
@[simp] theorem State.setReg_vbr (s : State) (n : Reg) (v : Word) : (s.setReg n v).vbr = s.vbr := rfl
@[simp] theorem State.setReg_mach (s : State) (n : Reg) (v : Word) : (s.setReg n v).mach = s.mach := rfl
@[simp] theorem State.setReg_macl (s : State) (n : Reg) (v : Word) : (s.setReg n v).macl = s.macl := rfl
@[simp] theorem State.setReg_pr (s : State) (n : Reg) (v : Word) : (s.setReg n v).pr = s.pr := rfl
@[simp] theorem State.setReg_pc (s : State) (n : Reg) (v : Word) : (s.setReg n v).pc = s.pc := rfl
@[simp] theorem State.setReg_slot (s : State) (n : Reg) (v : Word) : (s.setReg n v).slot = s.slot := rfl
@[simp] theorem State.setReg_irqBlock (s : State) (n : Reg) (v : Word) : (s.setReg n v).irqBlock = s.irqBlock := rfl
@[simp] theorem State.setReg_proc (s : State) (n : Reg) (v : Word) : (s.setReg n v).proc = s.proc := rfl
@[simp] theorem State.setReg_mem (s : State) (n : Reg) (v : Word) : (s.setReg n v).mem = s.mem := rfl
@[simp] theorem State.setReg_bootMat (s : State) (n : Reg) (v : Word) : (s.setReg n v).bootMat = s.bootMat := rfl
@[simp] theorem State.setReg_ramEpoch (s : State) (n : Reg) (v : Word) : (s.setReg n v).ramEpoch = s.ramEpoch := rfl
@[simp] theorem State.setReg_part (s : State) (n : Reg) (v : Word) : (s.setReg n v).part = s.part := rfl
@[simp] theorem State.setReg_mode (s : State) (n : Reg) (v : Word) : (s.setReg n v).mode = s.mode := rfl
@[simp] theorem State.setReg_pins (s : State) (n : Reg) (v : Word) : (s.setReg n v).pins = s.pins := rfl
@[simp] theorem State.setReg_lines (s : State) (n : Reg) (v : Word) : (s.setReg n v).lines = s.lines := rfl
@[simp] theorem State.setReg_intc (s : State) (n : Reg) (v : Word) : (s.setReg n v).intc = s.intc := rfl
@[simp] theorem State.setReg_ubc (s : State) (n : Reg) (v : Word) : (s.setReg n v).ubc = s.ubc := rfl
@[simp] theorem State.setReg_dtc (s : State) (n : Reg) (v : Word) : (s.setReg n v).dtc = s.dtc := rfl
@[simp] theorem State.setReg_bsc (s : State) (n : Reg) (v : Word) : (s.setReg n v).bsc = s.bsc := rfl
@[simp] theorem State.setReg_cpg (s : State) (n : Reg) (v : Word) : (s.setReg n v).cpg = s.cpg := rfl
@[simp] theorem State.setReg_wdt (s : State) (n : Reg) (v : Word) : (s.setReg n v).wdt = s.wdt := rfl
@[simp] theorem State.setReg_cmt (s : State) (n : Reg) (v : Word) : (s.setReg n v).cmt = s.cmt := rfl
@[simp] theorem State.setReg_power (s : State) (n : Reg) (v : Word) : (s.setReg n v).power = s.power := rfl
@[simp] theorem State.setReg_flash (s : State) (n : Reg) (v : Word) : (s.setReg n v).flash = s.flash := rfl
@[simp] theorem State.setReg_aud (s : State) (n : Reg) (v : Word) : (s.setReg n v).aud = s.aud := rfl
@[simp] theorem State.setReg_windows (s : State) (n : Reg) (v : Word) : (s.setReg n v).windows = s.windows := rfl
@[simp] theorem State.setReg_draws (s : State) (n : Reg) (v : Word) : (s.setReg n v).draws = s.draws := rfl
@[simp] theorem State.setReg_agenda (s : State) (n : Reg) (v : Word) : (s.setReg n v).agenda = s.agenda := rfl
@[simp] theorem State.setReg_inner (s : State) (n : Reg) (v : Word) : (s.setReg n v).inner = s.inner := rfl
@[simp] theorem State.setReg_turn (s : State) (n : Reg) (v : Word) : (s.setReg n v).turn = s.turn := rfl

@[simp] theorem State.setT_regs (s : State) (b : Bool) : (s.setT b).regs = s.regs := rfl
@[simp] theorem State.setT_gbr (s : State) (b : Bool) : (s.setT b).gbr = s.gbr := rfl
@[simp] theorem State.setT_vbr (s : State) (b : Bool) : (s.setT b).vbr = s.vbr := rfl
@[simp] theorem State.setT_mach (s : State) (b : Bool) : (s.setT b).mach = s.mach := rfl
@[simp] theorem State.setT_macl (s : State) (b : Bool) : (s.setT b).macl = s.macl := rfl
@[simp] theorem State.setT_pr (s : State) (b : Bool) : (s.setT b).pr = s.pr := rfl
@[simp] theorem State.setT_pc (s : State) (b : Bool) : (s.setT b).pc = s.pc := rfl
@[simp] theorem State.setT_slot (s : State) (b : Bool) : (s.setT b).slot = s.slot := rfl
@[simp] theorem State.setT_irqBlock (s : State) (b : Bool) : (s.setT b).irqBlock = s.irqBlock := rfl
@[simp] theorem State.setT_proc (s : State) (b : Bool) : (s.setT b).proc = s.proc := rfl
@[simp] theorem State.setT_mem (s : State) (b : Bool) : (s.setT b).mem = s.mem := rfl
@[simp] theorem State.setT_bootMat (s : State) (b : Bool) : (s.setT b).bootMat = s.bootMat := rfl
@[simp] theorem State.setT_ramEpoch (s : State) (b : Bool) : (s.setT b).ramEpoch = s.ramEpoch := rfl
@[simp] theorem State.setT_part (s : State) (b : Bool) : (s.setT b).part = s.part := rfl
@[simp] theorem State.setT_mode (s : State) (b : Bool) : (s.setT b).mode = s.mode := rfl
@[simp] theorem State.setT_pins (s : State) (b : Bool) : (s.setT b).pins = s.pins := rfl
@[simp] theorem State.setT_lines (s : State) (b : Bool) : (s.setT b).lines = s.lines := rfl
@[simp] theorem State.setT_intc (s : State) (b : Bool) : (s.setT b).intc = s.intc := rfl
@[simp] theorem State.setT_ubc (s : State) (b : Bool) : (s.setT b).ubc = s.ubc := rfl
@[simp] theorem State.setT_dtc (s : State) (b : Bool) : (s.setT b).dtc = s.dtc := rfl
@[simp] theorem State.setT_bsc (s : State) (b : Bool) : (s.setT b).bsc = s.bsc := rfl
@[simp] theorem State.setT_cpg (s : State) (b : Bool) : (s.setT b).cpg = s.cpg := rfl
@[simp] theorem State.setT_wdt (s : State) (b : Bool) : (s.setT b).wdt = s.wdt := rfl
@[simp] theorem State.setT_cmt (s : State) (b : Bool) : (s.setT b).cmt = s.cmt := rfl
@[simp] theorem State.setT_power (s : State) (b : Bool) : (s.setT b).power = s.power := rfl
@[simp] theorem State.setT_flash (s : State) (b : Bool) : (s.setT b).flash = s.flash := rfl
@[simp] theorem State.setT_aud (s : State) (b : Bool) : (s.setT b).aud = s.aud := rfl
@[simp] theorem State.setT_windows (s : State) (b : Bool) : (s.setT b).windows = s.windows := rfl
@[simp] theorem State.setT_draws (s : State) (b : Bool) : (s.setT b).draws = s.draws := rfl
@[simp] theorem State.setT_agenda (s : State) (b : Bool) : (s.setT b).agenda = s.agenda := rfl
@[simp] theorem State.setT_inner (s : State) (b : Bool) : (s.setT b).inner = s.inner := rfl
@[simp] theorem State.setT_turn (s : State) (b : Bool) : (s.setT b).turn = s.turn := rfl

@[simp] theorem State.setQ_regs (s : State) (b : Bool) : (s.setQ b).regs = s.regs := rfl
@[simp] theorem State.setQ_gbr (s : State) (b : Bool) : (s.setQ b).gbr = s.gbr := rfl
@[simp] theorem State.setQ_vbr (s : State) (b : Bool) : (s.setQ b).vbr = s.vbr := rfl
@[simp] theorem State.setQ_mach (s : State) (b : Bool) : (s.setQ b).mach = s.mach := rfl
@[simp] theorem State.setQ_macl (s : State) (b : Bool) : (s.setQ b).macl = s.macl := rfl
@[simp] theorem State.setQ_pr (s : State) (b : Bool) : (s.setQ b).pr = s.pr := rfl
@[simp] theorem State.setQ_pc (s : State) (b : Bool) : (s.setQ b).pc = s.pc := rfl
@[simp] theorem State.setQ_slot (s : State) (b : Bool) : (s.setQ b).slot = s.slot := rfl
@[simp] theorem State.setQ_irqBlock (s : State) (b : Bool) : (s.setQ b).irqBlock = s.irqBlock := rfl
@[simp] theorem State.setQ_proc (s : State) (b : Bool) : (s.setQ b).proc = s.proc := rfl
@[simp] theorem State.setQ_mem (s : State) (b : Bool) : (s.setQ b).mem = s.mem := rfl
@[simp] theorem State.setQ_bootMat (s : State) (b : Bool) : (s.setQ b).bootMat = s.bootMat := rfl
@[simp] theorem State.setQ_ramEpoch (s : State) (b : Bool) : (s.setQ b).ramEpoch = s.ramEpoch := rfl
@[simp] theorem State.setQ_part (s : State) (b : Bool) : (s.setQ b).part = s.part := rfl
@[simp] theorem State.setQ_mode (s : State) (b : Bool) : (s.setQ b).mode = s.mode := rfl
@[simp] theorem State.setQ_pins (s : State) (b : Bool) : (s.setQ b).pins = s.pins := rfl
@[simp] theorem State.setQ_lines (s : State) (b : Bool) : (s.setQ b).lines = s.lines := rfl
@[simp] theorem State.setQ_intc (s : State) (b : Bool) : (s.setQ b).intc = s.intc := rfl
@[simp] theorem State.setQ_ubc (s : State) (b : Bool) : (s.setQ b).ubc = s.ubc := rfl
@[simp] theorem State.setQ_dtc (s : State) (b : Bool) : (s.setQ b).dtc = s.dtc := rfl
@[simp] theorem State.setQ_bsc (s : State) (b : Bool) : (s.setQ b).bsc = s.bsc := rfl
@[simp] theorem State.setQ_cpg (s : State) (b : Bool) : (s.setQ b).cpg = s.cpg := rfl
@[simp] theorem State.setQ_wdt (s : State) (b : Bool) : (s.setQ b).wdt = s.wdt := rfl
@[simp] theorem State.setQ_cmt (s : State) (b : Bool) : (s.setQ b).cmt = s.cmt := rfl
@[simp] theorem State.setQ_power (s : State) (b : Bool) : (s.setQ b).power = s.power := rfl
@[simp] theorem State.setQ_flash (s : State) (b : Bool) : (s.setQ b).flash = s.flash := rfl
@[simp] theorem State.setQ_aud (s : State) (b : Bool) : (s.setQ b).aud = s.aud := rfl
@[simp] theorem State.setQ_windows (s : State) (b : Bool) : (s.setQ b).windows = s.windows := rfl
@[simp] theorem State.setQ_draws (s : State) (b : Bool) : (s.setQ b).draws = s.draws := rfl
@[simp] theorem State.setQ_agenda (s : State) (b : Bool) : (s.setQ b).agenda = s.agenda := rfl
@[simp] theorem State.setQ_inner (s : State) (b : Bool) : (s.setQ b).inner = s.inner := rfl
@[simp] theorem State.setQ_turn (s : State) (b : Bool) : (s.setQ b).turn = s.turn := rfl

@[simp] theorem State.setM_regs (s : State) (b : Bool) : (s.setM b).regs = s.regs := rfl
@[simp] theorem State.setM_gbr (s : State) (b : Bool) : (s.setM b).gbr = s.gbr := rfl
@[simp] theorem State.setM_vbr (s : State) (b : Bool) : (s.setM b).vbr = s.vbr := rfl
@[simp] theorem State.setM_mach (s : State) (b : Bool) : (s.setM b).mach = s.mach := rfl
@[simp] theorem State.setM_macl (s : State) (b : Bool) : (s.setM b).macl = s.macl := rfl
@[simp] theorem State.setM_pr (s : State) (b : Bool) : (s.setM b).pr = s.pr := rfl
@[simp] theorem State.setM_pc (s : State) (b : Bool) : (s.setM b).pc = s.pc := rfl
@[simp] theorem State.setM_slot (s : State) (b : Bool) : (s.setM b).slot = s.slot := rfl
@[simp] theorem State.setM_irqBlock (s : State) (b : Bool) : (s.setM b).irqBlock = s.irqBlock := rfl
@[simp] theorem State.setM_proc (s : State) (b : Bool) : (s.setM b).proc = s.proc := rfl
@[simp] theorem State.setM_mem (s : State) (b : Bool) : (s.setM b).mem = s.mem := rfl
@[simp] theorem State.setM_bootMat (s : State) (b : Bool) : (s.setM b).bootMat = s.bootMat := rfl
@[simp] theorem State.setM_ramEpoch (s : State) (b : Bool) : (s.setM b).ramEpoch = s.ramEpoch := rfl
@[simp] theorem State.setM_part (s : State) (b : Bool) : (s.setM b).part = s.part := rfl
@[simp] theorem State.setM_mode (s : State) (b : Bool) : (s.setM b).mode = s.mode := rfl
@[simp] theorem State.setM_pins (s : State) (b : Bool) : (s.setM b).pins = s.pins := rfl
@[simp] theorem State.setM_lines (s : State) (b : Bool) : (s.setM b).lines = s.lines := rfl
@[simp] theorem State.setM_intc (s : State) (b : Bool) : (s.setM b).intc = s.intc := rfl
@[simp] theorem State.setM_ubc (s : State) (b : Bool) : (s.setM b).ubc = s.ubc := rfl
@[simp] theorem State.setM_dtc (s : State) (b : Bool) : (s.setM b).dtc = s.dtc := rfl
@[simp] theorem State.setM_bsc (s : State) (b : Bool) : (s.setM b).bsc = s.bsc := rfl
@[simp] theorem State.setM_cpg (s : State) (b : Bool) : (s.setM b).cpg = s.cpg := rfl
@[simp] theorem State.setM_wdt (s : State) (b : Bool) : (s.setM b).wdt = s.wdt := rfl
@[simp] theorem State.setM_cmt (s : State) (b : Bool) : (s.setM b).cmt = s.cmt := rfl
@[simp] theorem State.setM_power (s : State) (b : Bool) : (s.setM b).power = s.power := rfl
@[simp] theorem State.setM_flash (s : State) (b : Bool) : (s.setM b).flash = s.flash := rfl
@[simp] theorem State.setM_aud (s : State) (b : Bool) : (s.setM b).aud = s.aud := rfl
@[simp] theorem State.setM_windows (s : State) (b : Bool) : (s.setM b).windows = s.windows := rfl
@[simp] theorem State.setM_draws (s : State) (b : Bool) : (s.setM b).draws = s.draws := rfl
@[simp] theorem State.setM_agenda (s : State) (b : Bool) : (s.setM b).agenda = s.agenda := rfl
@[simp] theorem State.setM_inner (s : State) (b : Bool) : (s.setM b).inner = s.inner := rfl
@[simp] theorem State.setM_turn (s : State) (b : Bool) : (s.setM b).turn = s.turn := rfl

@[simp] theorem State.setRegT_gbr (s : State) (n : Reg) (v : Word) (b : Bool) : (s.setRegT n v b).gbr = s.gbr := rfl
@[simp] theorem State.setRegT_vbr (s : State) (n : Reg) (v : Word) (b : Bool) : (s.setRegT n v b).vbr = s.vbr := rfl
@[simp] theorem State.setRegT_mach (s : State) (n : Reg) (v : Word) (b : Bool) : (s.setRegT n v b).mach = s.mach := rfl
@[simp] theorem State.setRegT_macl (s : State) (n : Reg) (v : Word) (b : Bool) : (s.setRegT n v b).macl = s.macl := rfl
@[simp] theorem State.setRegT_pr (s : State) (n : Reg) (v : Word) (b : Bool) : (s.setRegT n v b).pr = s.pr := rfl
@[simp] theorem State.setRegT_pc (s : State) (n : Reg) (v : Word) (b : Bool) : (s.setRegT n v b).pc = s.pc := rfl
@[simp] theorem State.setRegT_slot (s : State) (n : Reg) (v : Word) (b : Bool) : (s.setRegT n v b).slot = s.slot := rfl
@[simp] theorem State.setRegT_irqBlock (s : State) (n : Reg) (v : Word) (b : Bool) : (s.setRegT n v b).irqBlock = s.irqBlock := rfl
@[simp] theorem State.setRegT_proc (s : State) (n : Reg) (v : Word) (b : Bool) : (s.setRegT n v b).proc = s.proc := rfl
@[simp] theorem State.setRegT_mem (s : State) (n : Reg) (v : Word) (b : Bool) : (s.setRegT n v b).mem = s.mem := rfl
@[simp] theorem State.setRegT_bootMat (s : State) (n : Reg) (v : Word) (b : Bool) : (s.setRegT n v b).bootMat = s.bootMat := rfl
@[simp] theorem State.setRegT_ramEpoch (s : State) (n : Reg) (v : Word) (b : Bool) : (s.setRegT n v b).ramEpoch = s.ramEpoch := rfl
@[simp] theorem State.setRegT_part (s : State) (n : Reg) (v : Word) (b : Bool) : (s.setRegT n v b).part = s.part := rfl
@[simp] theorem State.setRegT_mode (s : State) (n : Reg) (v : Word) (b : Bool) : (s.setRegT n v b).mode = s.mode := rfl
@[simp] theorem State.setRegT_pins (s : State) (n : Reg) (v : Word) (b : Bool) : (s.setRegT n v b).pins = s.pins := rfl
@[simp] theorem State.setRegT_lines (s : State) (n : Reg) (v : Word) (b : Bool) : (s.setRegT n v b).lines = s.lines := rfl
@[simp] theorem State.setRegT_intc (s : State) (n : Reg) (v : Word) (b : Bool) : (s.setRegT n v b).intc = s.intc := rfl
@[simp] theorem State.setRegT_ubc (s : State) (n : Reg) (v : Word) (b : Bool) : (s.setRegT n v b).ubc = s.ubc := rfl
@[simp] theorem State.setRegT_dtc (s : State) (n : Reg) (v : Word) (b : Bool) : (s.setRegT n v b).dtc = s.dtc := rfl
@[simp] theorem State.setRegT_bsc (s : State) (n : Reg) (v : Word) (b : Bool) : (s.setRegT n v b).bsc = s.bsc := rfl
@[simp] theorem State.setRegT_cpg (s : State) (n : Reg) (v : Word) (b : Bool) : (s.setRegT n v b).cpg = s.cpg := rfl
@[simp] theorem State.setRegT_wdt (s : State) (n : Reg) (v : Word) (b : Bool) : (s.setRegT n v b).wdt = s.wdt := rfl
@[simp] theorem State.setRegT_cmt (s : State) (n : Reg) (v : Word) (b : Bool) : (s.setRegT n v b).cmt = s.cmt := rfl
@[simp] theorem State.setRegT_power (s : State) (n : Reg) (v : Word) (b : Bool) : (s.setRegT n v b).power = s.power := rfl
@[simp] theorem State.setRegT_flash (s : State) (n : Reg) (v : Word) (b : Bool) : (s.setRegT n v b).flash = s.flash := rfl
@[simp] theorem State.setRegT_aud (s : State) (n : Reg) (v : Word) (b : Bool) : (s.setRegT n v b).aud = s.aud := rfl
@[simp] theorem State.setRegT_windows (s : State) (n : Reg) (v : Word) (b : Bool) : (s.setRegT n v b).windows = s.windows := rfl
@[simp] theorem State.setRegT_draws (s : State) (n : Reg) (v : Word) (b : Bool) : (s.setRegT n v b).draws = s.draws := rfl
@[simp] theorem State.setRegT_agenda (s : State) (n : Reg) (v : Word) (b : Bool) : (s.setRegT n v b).agenda = s.agenda := rfl
@[simp] theorem State.setRegT_inner (s : State) (n : Reg) (v : Word) (b : Bool) : (s.setRegT n v b).inner = s.inner := rfl
@[simp] theorem State.setRegT_turn (s : State) (n : Reg) (v : Word) (b : Bool) : (s.setRegT n v b).turn = s.turn := rfl

@[simp] theorem State.writeSr_regs (s : State) (v : Word) : (s.writeSr v).regs = s.regs := rfl
@[simp] theorem State.writeSr_gbr (s : State) (v : Word) : (s.writeSr v).gbr = s.gbr := rfl
@[simp] theorem State.writeSr_vbr (s : State) (v : Word) : (s.writeSr v).vbr = s.vbr := rfl
@[simp] theorem State.writeSr_mach (s : State) (v : Word) : (s.writeSr v).mach = s.mach := rfl
@[simp] theorem State.writeSr_macl (s : State) (v : Word) : (s.writeSr v).macl = s.macl := rfl
@[simp] theorem State.writeSr_pr (s : State) (v : Word) : (s.writeSr v).pr = s.pr := rfl
@[simp] theorem State.writeSr_pc (s : State) (v : Word) : (s.writeSr v).pc = s.pc := rfl
@[simp] theorem State.writeSr_slot (s : State) (v : Word) : (s.writeSr v).slot = s.slot := rfl
@[simp] theorem State.writeSr_irqBlock (s : State) (v : Word) : (s.writeSr v).irqBlock = s.irqBlock := rfl
@[simp] theorem State.writeSr_proc (s : State) (v : Word) : (s.writeSr v).proc = s.proc := rfl
@[simp] theorem State.writeSr_mem (s : State) (v : Word) : (s.writeSr v).mem = s.mem := rfl
@[simp] theorem State.writeSr_bootMat (s : State) (v : Word) : (s.writeSr v).bootMat = s.bootMat := rfl
@[simp] theorem State.writeSr_ramEpoch (s : State) (v : Word) : (s.writeSr v).ramEpoch = s.ramEpoch := rfl
@[simp] theorem State.writeSr_part (s : State) (v : Word) : (s.writeSr v).part = s.part := rfl
@[simp] theorem State.writeSr_mode (s : State) (v : Word) : (s.writeSr v).mode = s.mode := rfl
@[simp] theorem State.writeSr_pins (s : State) (v : Word) : (s.writeSr v).pins = s.pins := rfl
@[simp] theorem State.writeSr_lines (s : State) (v : Word) : (s.writeSr v).lines = s.lines := rfl
@[simp] theorem State.writeSr_intc (s : State) (v : Word) : (s.writeSr v).intc = s.intc := rfl
@[simp] theorem State.writeSr_ubc (s : State) (v : Word) : (s.writeSr v).ubc = s.ubc := rfl
@[simp] theorem State.writeSr_dtc (s : State) (v : Word) : (s.writeSr v).dtc = s.dtc := rfl
@[simp] theorem State.writeSr_bsc (s : State) (v : Word) : (s.writeSr v).bsc = s.bsc := rfl
@[simp] theorem State.writeSr_cpg (s : State) (v : Word) : (s.writeSr v).cpg = s.cpg := rfl
@[simp] theorem State.writeSr_wdt (s : State) (v : Word) : (s.writeSr v).wdt = s.wdt := rfl
@[simp] theorem State.writeSr_cmt (s : State) (v : Word) : (s.writeSr v).cmt = s.cmt := rfl
@[simp] theorem State.writeSr_power (s : State) (v : Word) : (s.writeSr v).power = s.power := rfl
@[simp] theorem State.writeSr_flash (s : State) (v : Word) : (s.writeSr v).flash = s.flash := rfl
@[simp] theorem State.writeSr_aud (s : State) (v : Word) : (s.writeSr v).aud = s.aud := rfl
@[simp] theorem State.writeSr_windows (s : State) (v : Word) : (s.writeSr v).windows = s.windows := rfl
@[simp] theorem State.writeSr_draws (s : State) (v : Word) : (s.writeSr v).draws = s.draws := rfl
@[simp] theorem State.writeSr_agenda (s : State) (v : Word) : (s.writeSr v).agenda = s.agenda := rfl
@[simp] theorem State.writeSr_inner (s : State) (v : Word) : (s.writeSr v).inner = s.inner := rfl
@[simp] theorem State.writeSr_turn (s : State) (v : Word) : (s.writeSr v).turn = s.turn := rfl

@[simp] theorem State.setMac_regs (s : State) (v : BitVec 64) : (s.setMac v).regs = s.regs := rfl
@[simp] theorem State.setMac_sr (s : State) (v : BitVec 64) : (s.setMac v).sr = s.sr := rfl
@[simp] theorem State.setMac_gbr (s : State) (v : BitVec 64) : (s.setMac v).gbr = s.gbr := rfl
@[simp] theorem State.setMac_vbr (s : State) (v : BitVec 64) : (s.setMac v).vbr = s.vbr := rfl
@[simp] theorem State.setMac_pr (s : State) (v : BitVec 64) : (s.setMac v).pr = s.pr := rfl
@[simp] theorem State.setMac_pc (s : State) (v : BitVec 64) : (s.setMac v).pc = s.pc := rfl
@[simp] theorem State.setMac_slot (s : State) (v : BitVec 64) : (s.setMac v).slot = s.slot := rfl
@[simp] theorem State.setMac_irqBlock (s : State) (v : BitVec 64) : (s.setMac v).irqBlock = s.irqBlock := rfl
@[simp] theorem State.setMac_proc (s : State) (v : BitVec 64) : (s.setMac v).proc = s.proc := rfl
@[simp] theorem State.setMac_mem (s : State) (v : BitVec 64) : (s.setMac v).mem = s.mem := rfl
@[simp] theorem State.setMac_bootMat (s : State) (v : BitVec 64) : (s.setMac v).bootMat = s.bootMat := rfl
@[simp] theorem State.setMac_ramEpoch (s : State) (v : BitVec 64) : (s.setMac v).ramEpoch = s.ramEpoch := rfl
@[simp] theorem State.setMac_part (s : State) (v : BitVec 64) : (s.setMac v).part = s.part := rfl
@[simp] theorem State.setMac_mode (s : State) (v : BitVec 64) : (s.setMac v).mode = s.mode := rfl
@[simp] theorem State.setMac_pins (s : State) (v : BitVec 64) : (s.setMac v).pins = s.pins := rfl
@[simp] theorem State.setMac_lines (s : State) (v : BitVec 64) : (s.setMac v).lines = s.lines := rfl
@[simp] theorem State.setMac_intc (s : State) (v : BitVec 64) : (s.setMac v).intc = s.intc := rfl
@[simp] theorem State.setMac_ubc (s : State) (v : BitVec 64) : (s.setMac v).ubc = s.ubc := rfl
@[simp] theorem State.setMac_dtc (s : State) (v : BitVec 64) : (s.setMac v).dtc = s.dtc := rfl
@[simp] theorem State.setMac_bsc (s : State) (v : BitVec 64) : (s.setMac v).bsc = s.bsc := rfl
@[simp] theorem State.setMac_cpg (s : State) (v : BitVec 64) : (s.setMac v).cpg = s.cpg := rfl
@[simp] theorem State.setMac_wdt (s : State) (v : BitVec 64) : (s.setMac v).wdt = s.wdt := rfl
@[simp] theorem State.setMac_cmt (s : State) (v : BitVec 64) : (s.setMac v).cmt = s.cmt := rfl
@[simp] theorem State.setMac_power (s : State) (v : BitVec 64) : (s.setMac v).power = s.power := rfl
@[simp] theorem State.setMac_flash (s : State) (v : BitVec 64) : (s.setMac v).flash = s.flash := rfl
@[simp] theorem State.setMac_aud (s : State) (v : BitVec 64) : (s.setMac v).aud = s.aud := rfl
@[simp] theorem State.setMac_windows (s : State) (v : BitVec 64) : (s.setMac v).windows = s.windows := rfl
@[simp] theorem State.setMac_draws (s : State) (v : BitVec 64) : (s.setMac v).draws = s.draws := rfl
@[simp] theorem State.setMac_agenda (s : State) (v : BitVec 64) : (s.setMac v).agenda = s.agenda := rfl
@[simp] theorem State.setMac_inner (s : State) (v : BitVec 64) : (s.setMac v).inner = s.inner := rfl
@[simp] theorem State.setMac_turn (s : State) (v : BitVec 64) : (s.setMac v).turn = s.turn := rfl

@[simp] theorem State.drawWord_regs (s : State) : (s.drawWord.2).regs = s.regs := rfl
@[simp] theorem State.drawWord_sr (s : State) : (s.drawWord.2).sr = s.sr := rfl
@[simp] theorem State.drawWord_gbr (s : State) : (s.drawWord.2).gbr = s.gbr := rfl
@[simp] theorem State.drawWord_vbr (s : State) : (s.drawWord.2).vbr = s.vbr := rfl
@[simp] theorem State.drawWord_mach (s : State) : (s.drawWord.2).mach = s.mach := rfl
@[simp] theorem State.drawWord_macl (s : State) : (s.drawWord.2).macl = s.macl := rfl
@[simp] theorem State.drawWord_pr (s : State) : (s.drawWord.2).pr = s.pr := rfl
@[simp] theorem State.drawWord_pc (s : State) : (s.drawWord.2).pc = s.pc := rfl
@[simp] theorem State.drawWord_slot (s : State) : (s.drawWord.2).slot = s.slot := rfl
@[simp] theorem State.drawWord_irqBlock (s : State) : (s.drawWord.2).irqBlock = s.irqBlock := rfl
@[simp] theorem State.drawWord_proc (s : State) : (s.drawWord.2).proc = s.proc := rfl
@[simp] theorem State.drawWord_mem (s : State) : (s.drawWord.2).mem = s.mem := rfl
@[simp] theorem State.drawWord_bootMat (s : State) : (s.drawWord.2).bootMat = s.bootMat := rfl
@[simp] theorem State.drawWord_ramEpoch (s : State) : (s.drawWord.2).ramEpoch = s.ramEpoch := rfl
@[simp] theorem State.drawWord_part (s : State) : (s.drawWord.2).part = s.part := rfl
@[simp] theorem State.drawWord_mode (s : State) : (s.drawWord.2).mode = s.mode := rfl
@[simp] theorem State.drawWord_pins (s : State) : (s.drawWord.2).pins = s.pins := rfl
@[simp] theorem State.drawWord_lines (s : State) : (s.drawWord.2).lines = s.lines := rfl
@[simp] theorem State.drawWord_intc (s : State) : (s.drawWord.2).intc = s.intc := rfl
@[simp] theorem State.drawWord_ubc (s : State) : (s.drawWord.2).ubc = s.ubc := rfl
@[simp] theorem State.drawWord_dtc (s : State) : (s.drawWord.2).dtc = s.dtc := rfl
@[simp] theorem State.drawWord_bsc (s : State) : (s.drawWord.2).bsc = s.bsc := rfl
@[simp] theorem State.drawWord_cpg (s : State) : (s.drawWord.2).cpg = s.cpg := rfl
@[simp] theorem State.drawWord_wdt (s : State) : (s.drawWord.2).wdt = s.wdt := rfl
@[simp] theorem State.drawWord_cmt (s : State) : (s.drawWord.2).cmt = s.cmt := rfl
@[simp] theorem State.drawWord_power (s : State) : (s.drawWord.2).power = s.power := rfl
@[simp] theorem State.drawWord_flash (s : State) : (s.drawWord.2).flash = s.flash := rfl
@[simp] theorem State.drawWord_aud (s : State) : (s.drawWord.2).aud = s.aud := rfl
@[simp] theorem State.drawWord_windows (s : State) : (s.drawWord.2).windows = s.windows := rfl
@[simp] theorem State.drawWord_agenda (s : State) : (s.drawWord.2).agenda = s.agenda := rfl
@[simp] theorem State.drawWord_inner (s : State) : (s.drawWord.2).inner = s.inner := rfl
@[simp] theorem State.drawWord_turn (s : State) : (s.drawWord.2).turn = s.turn := rfl

@[simp] theorem State.drawBit_regs (s : State) : (s.drawBit.2).regs = s.regs := rfl
@[simp] theorem State.drawBit_sr (s : State) : (s.drawBit.2).sr = s.sr := rfl
@[simp] theorem State.drawBit_gbr (s : State) : (s.drawBit.2).gbr = s.gbr := rfl
@[simp] theorem State.drawBit_vbr (s : State) : (s.drawBit.2).vbr = s.vbr := rfl
@[simp] theorem State.drawBit_mach (s : State) : (s.drawBit.2).mach = s.mach := rfl
@[simp] theorem State.drawBit_macl (s : State) : (s.drawBit.2).macl = s.macl := rfl
@[simp] theorem State.drawBit_pr (s : State) : (s.drawBit.2).pr = s.pr := rfl
@[simp] theorem State.drawBit_pc (s : State) : (s.drawBit.2).pc = s.pc := rfl
@[simp] theorem State.drawBit_slot (s : State) : (s.drawBit.2).slot = s.slot := rfl
@[simp] theorem State.drawBit_irqBlock (s : State) : (s.drawBit.2).irqBlock = s.irqBlock := rfl
@[simp] theorem State.drawBit_proc (s : State) : (s.drawBit.2).proc = s.proc := rfl
@[simp] theorem State.drawBit_mem (s : State) : (s.drawBit.2).mem = s.mem := rfl
@[simp] theorem State.drawBit_bootMat (s : State) : (s.drawBit.2).bootMat = s.bootMat := rfl
@[simp] theorem State.drawBit_ramEpoch (s : State) : (s.drawBit.2).ramEpoch = s.ramEpoch := rfl
@[simp] theorem State.drawBit_part (s : State) : (s.drawBit.2).part = s.part := rfl
@[simp] theorem State.drawBit_mode (s : State) : (s.drawBit.2).mode = s.mode := rfl
@[simp] theorem State.drawBit_pins (s : State) : (s.drawBit.2).pins = s.pins := rfl
@[simp] theorem State.drawBit_lines (s : State) : (s.drawBit.2).lines = s.lines := rfl
@[simp] theorem State.drawBit_intc (s : State) : (s.drawBit.2).intc = s.intc := rfl
@[simp] theorem State.drawBit_ubc (s : State) : (s.drawBit.2).ubc = s.ubc := rfl
@[simp] theorem State.drawBit_dtc (s : State) : (s.drawBit.2).dtc = s.dtc := rfl
@[simp] theorem State.drawBit_bsc (s : State) : (s.drawBit.2).bsc = s.bsc := rfl
@[simp] theorem State.drawBit_cpg (s : State) : (s.drawBit.2).cpg = s.cpg := rfl
@[simp] theorem State.drawBit_wdt (s : State) : (s.drawBit.2).wdt = s.wdt := rfl
@[simp] theorem State.drawBit_cmt (s : State) : (s.drawBit.2).cmt = s.cmt := rfl
@[simp] theorem State.drawBit_power (s : State) : (s.drawBit.2).power = s.power := rfl
@[simp] theorem State.drawBit_flash (s : State) : (s.drawBit.2).flash = s.flash := rfl
@[simp] theorem State.drawBit_aud (s : State) : (s.drawBit.2).aud = s.aud := rfl
@[simp] theorem State.drawBit_windows (s : State) : (s.drawBit.2).windows = s.windows := rfl
@[simp] theorem State.drawBit_agenda (s : State) : (s.drawBit.2).agenda = s.agenda := rfl
@[simp] theorem State.drawBit_inner (s : State) : (s.drawBit.2).inner = s.inner := rfl
@[simp] theorem State.drawBit_turn (s : State) : (s.drawBit.2).turn = s.turn := rfl

@[simp] theorem State.drawValue_regs (s : State) (z : Size) : ((s.drawValue z).2).regs = s.regs := rfl
@[simp] theorem State.drawValue_sr (s : State) (z : Size) : ((s.drawValue z).2).sr = s.sr := rfl
@[simp] theorem State.drawValue_gbr (s : State) (z : Size) : ((s.drawValue z).2).gbr = s.gbr := rfl
@[simp] theorem State.drawValue_vbr (s : State) (z : Size) : ((s.drawValue z).2).vbr = s.vbr := rfl
@[simp] theorem State.drawValue_mach (s : State) (z : Size) : ((s.drawValue z).2).mach = s.mach := rfl
@[simp] theorem State.drawValue_macl (s : State) (z : Size) : ((s.drawValue z).2).macl = s.macl := rfl
@[simp] theorem State.drawValue_pr (s : State) (z : Size) : ((s.drawValue z).2).pr = s.pr := rfl
@[simp] theorem State.drawValue_pc (s : State) (z : Size) : ((s.drawValue z).2).pc = s.pc := rfl
@[simp] theorem State.drawValue_slot (s : State) (z : Size) : ((s.drawValue z).2).slot = s.slot := rfl
@[simp] theorem State.drawValue_irqBlock (s : State) (z : Size) : ((s.drawValue z).2).irqBlock = s.irqBlock := rfl
@[simp] theorem State.drawValue_proc (s : State) (z : Size) : ((s.drawValue z).2).proc = s.proc := rfl
@[simp] theorem State.drawValue_mem (s : State) (z : Size) : ((s.drawValue z).2).mem = s.mem := rfl
@[simp] theorem State.drawValue_bootMat (s : State) (z : Size) : ((s.drawValue z).2).bootMat = s.bootMat := rfl
@[simp] theorem State.drawValue_ramEpoch (s : State) (z : Size) : ((s.drawValue z).2).ramEpoch = s.ramEpoch := rfl
@[simp] theorem State.drawValue_part (s : State) (z : Size) : ((s.drawValue z).2).part = s.part := rfl
@[simp] theorem State.drawValue_mode (s : State) (z : Size) : ((s.drawValue z).2).mode = s.mode := rfl
@[simp] theorem State.drawValue_pins (s : State) (z : Size) : ((s.drawValue z).2).pins = s.pins := rfl
@[simp] theorem State.drawValue_lines (s : State) (z : Size) : ((s.drawValue z).2).lines = s.lines := rfl
@[simp] theorem State.drawValue_intc (s : State) (z : Size) : ((s.drawValue z).2).intc = s.intc := rfl
@[simp] theorem State.drawValue_ubc (s : State) (z : Size) : ((s.drawValue z).2).ubc = s.ubc := rfl
@[simp] theorem State.drawValue_dtc (s : State) (z : Size) : ((s.drawValue z).2).dtc = s.dtc := rfl
@[simp] theorem State.drawValue_bsc (s : State) (z : Size) : ((s.drawValue z).2).bsc = s.bsc := rfl
@[simp] theorem State.drawValue_cpg (s : State) (z : Size) : ((s.drawValue z).2).cpg = s.cpg := rfl
@[simp] theorem State.drawValue_wdt (s : State) (z : Size) : ((s.drawValue z).2).wdt = s.wdt := rfl
@[simp] theorem State.drawValue_cmt (s : State) (z : Size) : ((s.drawValue z).2).cmt = s.cmt := rfl
@[simp] theorem State.drawValue_power (s : State) (z : Size) : ((s.drawValue z).2).power = s.power := rfl
@[simp] theorem State.drawValue_flash (s : State) (z : Size) : ((s.drawValue z).2).flash = s.flash := rfl
@[simp] theorem State.drawValue_aud (s : State) (z : Size) : ((s.drawValue z).2).aud = s.aud := rfl
@[simp] theorem State.drawValue_windows (s : State) (z : Size) : ((s.drawValue z).2).windows = s.windows := rfl
@[simp] theorem State.drawValue_agenda (s : State) (z : Size) : ((s.drawValue z).2).agenda = s.agenda := rfl
@[simp] theorem State.drawValue_inner (s : State) (z : Size) : ((s.drawValue z).2).inner = s.inner := rfl
@[simp] theorem State.drawValue_turn (s : State) (z : Size) : ((s.drawValue z).2).turn = s.turn := rfl

@[simp] theorem State.store_regs (s : State) (z : Size) (a : Nat) (v : Word) : (s.store z a v).regs = s.regs := rfl
@[simp] theorem State.store_sr (s : State) (z : Size) (a : Nat) (v : Word) : (s.store z a v).sr = s.sr := rfl
@[simp] theorem State.store_gbr (s : State) (z : Size) (a : Nat) (v : Word) : (s.store z a v).gbr = s.gbr := rfl
@[simp] theorem State.store_vbr (s : State) (z : Size) (a : Nat) (v : Word) : (s.store z a v).vbr = s.vbr := rfl
@[simp] theorem State.store_mach (s : State) (z : Size) (a : Nat) (v : Word) : (s.store z a v).mach = s.mach := rfl
@[simp] theorem State.store_macl (s : State) (z : Size) (a : Nat) (v : Word) : (s.store z a v).macl = s.macl := rfl
@[simp] theorem State.store_pr (s : State) (z : Size) (a : Nat) (v : Word) : (s.store z a v).pr = s.pr := rfl
@[simp] theorem State.store_pc (s : State) (z : Size) (a : Nat) (v : Word) : (s.store z a v).pc = s.pc := rfl
@[simp] theorem State.store_slot (s : State) (z : Size) (a : Nat) (v : Word) : (s.store z a v).slot = s.slot := rfl
@[simp] theorem State.store_irqBlock (s : State) (z : Size) (a : Nat) (v : Word) : (s.store z a v).irqBlock = s.irqBlock := rfl
@[simp] theorem State.store_proc (s : State) (z : Size) (a : Nat) (v : Word) : (s.store z a v).proc = s.proc := rfl
@[simp] theorem State.store_bootMat (s : State) (z : Size) (a : Nat) (v : Word) : (s.store z a v).bootMat = s.bootMat := rfl
@[simp] theorem State.store_ramEpoch (s : State) (z : Size) (a : Nat) (v : Word) : (s.store z a v).ramEpoch = s.ramEpoch := rfl
@[simp] theorem State.store_part (s : State) (z : Size) (a : Nat) (v : Word) : (s.store z a v).part = s.part := rfl
@[simp] theorem State.store_mode (s : State) (z : Size) (a : Nat) (v : Word) : (s.store z a v).mode = s.mode := rfl
@[simp] theorem State.store_pins (s : State) (z : Size) (a : Nat) (v : Word) : (s.store z a v).pins = s.pins := rfl
@[simp] theorem State.store_lines (s : State) (z : Size) (a : Nat) (v : Word) : (s.store z a v).lines = s.lines := rfl
@[simp] theorem State.store_intc (s : State) (z : Size) (a : Nat) (v : Word) : (s.store z a v).intc = s.intc := rfl
@[simp] theorem State.store_ubc (s : State) (z : Size) (a : Nat) (v : Word) : (s.store z a v).ubc = s.ubc := rfl
@[simp] theorem State.store_dtc (s : State) (z : Size) (a : Nat) (v : Word) : (s.store z a v).dtc = s.dtc := rfl
@[simp] theorem State.store_bsc (s : State) (z : Size) (a : Nat) (v : Word) : (s.store z a v).bsc = s.bsc := rfl
@[simp] theorem State.store_cpg (s : State) (z : Size) (a : Nat) (v : Word) : (s.store z a v).cpg = s.cpg := rfl
@[simp] theorem State.store_wdt (s : State) (z : Size) (a : Nat) (v : Word) : (s.store z a v).wdt = s.wdt := rfl
@[simp] theorem State.store_cmt (s : State) (z : Size) (a : Nat) (v : Word) : (s.store z a v).cmt = s.cmt := rfl
@[simp] theorem State.store_power (s : State) (z : Size) (a : Nat) (v : Word) : (s.store z a v).power = s.power := rfl
@[simp] theorem State.store_flash (s : State) (z : Size) (a : Nat) (v : Word) : (s.store z a v).flash = s.flash := rfl
@[simp] theorem State.store_aud (s : State) (z : Size) (a : Nat) (v : Word) : (s.store z a v).aud = s.aud := rfl
@[simp] theorem State.store_windows (s : State) (z : Size) (a : Nat) (v : Word) : (s.store z a v).windows = s.windows := rfl
@[simp] theorem State.store_draws (s : State) (z : Size) (a : Nat) (v : Word) : (s.store z a v).draws = s.draws := rfl
@[simp] theorem State.store_agenda (s : State) (z : Size) (a : Nat) (v : Word) : (s.store z a v).agenda = s.agenda := rfl
@[simp] theorem State.store_inner (s : State) (z : Size) (a : Nat) (v : Word) : (s.store z a v).inner = s.inner := rfl
@[simp] theorem State.store_turn (s : State) (z : Size) (a : Nat) (v : Word) : (s.store z a v).turn = s.turn := rfl

@[simp] theorem State.clearStale_regs (s : State) : (clearStale s).regs = s.regs := rfl
@[simp] theorem State.clearStale_sr (s : State) : (clearStale s).sr = s.sr := rfl
@[simp] theorem State.clearStale_gbr (s : State) : (clearStale s).gbr = s.gbr := rfl
@[simp] theorem State.clearStale_vbr (s : State) : (clearStale s).vbr = s.vbr := rfl
@[simp] theorem State.clearStale_mach (s : State) : (clearStale s).mach = s.mach := rfl
@[simp] theorem State.clearStale_macl (s : State) : (clearStale s).macl = s.macl := rfl
@[simp] theorem State.clearStale_pr (s : State) : (clearStale s).pr = s.pr := rfl
@[simp] theorem State.clearStale_pc (s : State) : (clearStale s).pc = s.pc := rfl
@[simp] theorem State.clearStale_slot (s : State) : (clearStale s).slot = s.slot := rfl
@[simp] theorem State.clearStale_irqBlock (s : State) : (clearStale s).irqBlock = s.irqBlock := rfl
@[simp] theorem State.clearStale_proc (s : State) : (clearStale s).proc = s.proc := rfl
@[simp] theorem State.clearStale_mem (s : State) : (clearStale s).mem = s.mem := rfl
@[simp] theorem State.clearStale_bootMat (s : State) : (clearStale s).bootMat = s.bootMat := rfl
@[simp] theorem State.clearStale_ramEpoch (s : State) : (clearStale s).ramEpoch = s.ramEpoch := rfl
@[simp] theorem State.clearStale_part (s : State) : (clearStale s).part = s.part := rfl
@[simp] theorem State.clearStale_mode (s : State) : (clearStale s).mode = s.mode := rfl
@[simp] theorem State.clearStale_pins (s : State) : (clearStale s).pins = s.pins := rfl
@[simp] theorem State.clearStale_lines (s : State) : (clearStale s).lines = s.lines := rfl
@[simp] theorem State.clearStale_intc (s : State) : (clearStale s).intc = s.intc := rfl
@[simp] theorem State.clearStale_ubc (s : State) : (clearStale s).ubc = s.ubc := rfl
@[simp] theorem State.clearStale_dtc (s : State) : (clearStale s).dtc = s.dtc := rfl
@[simp] theorem State.clearStale_bsc (s : State) : (clearStale s).bsc = s.bsc := rfl
@[simp] theorem State.clearStale_cpg (s : State) : (clearStale s).cpg = s.cpg := rfl
@[simp] theorem State.clearStale_wdt (s : State) : (clearStale s).wdt = s.wdt := rfl
@[simp] theorem State.clearStale_cmt (s : State) : (clearStale s).cmt = s.cmt := rfl
@[simp] theorem State.clearStale_power (s : State) : (clearStale s).power = s.power := rfl
@[simp] theorem State.clearStale_flash (s : State) : (clearStale s).flash = s.flash := rfl
@[simp] theorem State.clearStale_aud (s : State) : (clearStale s).aud = s.aud := rfl
@[simp] theorem State.clearStale_draws (s : State) : (clearStale s).draws = s.draws := rfl
@[simp] theorem State.clearStale_agenda (s : State) : (clearStale s).agenda = s.agenda := rfl
@[simp] theorem State.clearStale_inner (s : State) : (clearStale s).inner = s.inner := rfl
@[simp] theorem State.clearStale_turn (s : State) : (clearStale s).turn = s.turn := rfl

@[simp] theorem State.tickWindows_regs (s : State) : (tickWindows s).regs = s.regs := rfl
@[simp] theorem State.tickWindows_sr (s : State) : (tickWindows s).sr = s.sr := rfl
@[simp] theorem State.tickWindows_gbr (s : State) : (tickWindows s).gbr = s.gbr := rfl
@[simp] theorem State.tickWindows_vbr (s : State) : (tickWindows s).vbr = s.vbr := rfl
@[simp] theorem State.tickWindows_mach (s : State) : (tickWindows s).mach = s.mach := rfl
@[simp] theorem State.tickWindows_macl (s : State) : (tickWindows s).macl = s.macl := rfl
@[simp] theorem State.tickWindows_pr (s : State) : (tickWindows s).pr = s.pr := rfl
@[simp] theorem State.tickWindows_pc (s : State) : (tickWindows s).pc = s.pc := rfl
@[simp] theorem State.tickWindows_slot (s : State) : (tickWindows s).slot = s.slot := rfl
@[simp] theorem State.tickWindows_irqBlock (s : State) : (tickWindows s).irqBlock = s.irqBlock := rfl
@[simp] theorem State.tickWindows_proc (s : State) : (tickWindows s).proc = s.proc := rfl
@[simp] theorem State.tickWindows_mem (s : State) : (tickWindows s).mem = s.mem := rfl
@[simp] theorem State.tickWindows_bootMat (s : State) : (tickWindows s).bootMat = s.bootMat := rfl
@[simp] theorem State.tickWindows_ramEpoch (s : State) : (tickWindows s).ramEpoch = s.ramEpoch := rfl
@[simp] theorem State.tickWindows_part (s : State) : (tickWindows s).part = s.part := rfl
@[simp] theorem State.tickWindows_mode (s : State) : (tickWindows s).mode = s.mode := rfl
@[simp] theorem State.tickWindows_pins (s : State) : (tickWindows s).pins = s.pins := rfl
@[simp] theorem State.tickWindows_lines (s : State) : (tickWindows s).lines = s.lines := rfl
@[simp] theorem State.tickWindows_intc (s : State) : (tickWindows s).intc = s.intc := rfl
@[simp] theorem State.tickWindows_ubc (s : State) : (tickWindows s).ubc = s.ubc := rfl
@[simp] theorem State.tickWindows_dtc (s : State) : (tickWindows s).dtc = s.dtc := rfl
@[simp] theorem State.tickWindows_bsc (s : State) : (tickWindows s).bsc = s.bsc := rfl
@[simp] theorem State.tickWindows_cpg (s : State) : (tickWindows s).cpg = s.cpg := rfl
@[simp] theorem State.tickWindows_wdt (s : State) : (tickWindows s).wdt = s.wdt := rfl
@[simp] theorem State.tickWindows_cmt (s : State) : (tickWindows s).cmt = s.cmt := rfl
@[simp] theorem State.tickWindows_power (s : State) : (tickWindows s).power = s.power := rfl
@[simp] theorem State.tickWindows_flash (s : State) : (tickWindows s).flash = s.flash := rfl
@[simp] theorem State.tickWindows_aud (s : State) : (tickWindows s).aud = s.aud := rfl
@[simp] theorem State.tickWindows_draws (s : State) : (tickWindows s).draws = s.draws := rfl
@[simp] theorem State.tickWindows_agenda (s : State) : (tickWindows s).agenda = s.agenda := rfl
@[simp] theorem State.tickWindows_inner (s : State) : (tickWindows s).inner = s.inner := rfl
@[simp] theorem State.tickWindows_turn (s : State) : (tickWindows s).turn = s.turn := rfl

@[simp] theorem State.ubcMark_regs (s : State) : (ubcMark s).regs = s.regs := rfl
@[simp] theorem State.ubcMark_sr (s : State) : (ubcMark s).sr = s.sr := rfl
@[simp] theorem State.ubcMark_gbr (s : State) : (ubcMark s).gbr = s.gbr := rfl
@[simp] theorem State.ubcMark_vbr (s : State) : (ubcMark s).vbr = s.vbr := rfl
@[simp] theorem State.ubcMark_mach (s : State) : (ubcMark s).mach = s.mach := rfl
@[simp] theorem State.ubcMark_macl (s : State) : (ubcMark s).macl = s.macl := rfl
@[simp] theorem State.ubcMark_pr (s : State) : (ubcMark s).pr = s.pr := rfl
@[simp] theorem State.ubcMark_pc (s : State) : (ubcMark s).pc = s.pc := rfl
@[simp] theorem State.ubcMark_slot (s : State) : (ubcMark s).slot = s.slot := rfl
@[simp] theorem State.ubcMark_irqBlock (s : State) : (ubcMark s).irqBlock = s.irqBlock := rfl
@[simp] theorem State.ubcMark_proc (s : State) : (ubcMark s).proc = s.proc := rfl
@[simp] theorem State.ubcMark_mem (s : State) : (ubcMark s).mem = s.mem := rfl
@[simp] theorem State.ubcMark_bootMat (s : State) : (ubcMark s).bootMat = s.bootMat := rfl
@[simp] theorem State.ubcMark_ramEpoch (s : State) : (ubcMark s).ramEpoch = s.ramEpoch := rfl
@[simp] theorem State.ubcMark_part (s : State) : (ubcMark s).part = s.part := rfl
@[simp] theorem State.ubcMark_mode (s : State) : (ubcMark s).mode = s.mode := rfl
@[simp] theorem State.ubcMark_pins (s : State) : (ubcMark s).pins = s.pins := rfl
@[simp] theorem State.ubcMark_lines (s : State) : (ubcMark s).lines = s.lines := rfl
@[simp] theorem State.ubcMark_intc (s : State) : (ubcMark s).intc = s.intc := rfl
@[simp] theorem State.ubcMark_dtc (s : State) : (ubcMark s).dtc = s.dtc := rfl
@[simp] theorem State.ubcMark_bsc (s : State) : (ubcMark s).bsc = s.bsc := rfl
@[simp] theorem State.ubcMark_cpg (s : State) : (ubcMark s).cpg = s.cpg := rfl
@[simp] theorem State.ubcMark_wdt (s : State) : (ubcMark s).wdt = s.wdt := rfl
@[simp] theorem State.ubcMark_cmt (s : State) : (ubcMark s).cmt = s.cmt := rfl
@[simp] theorem State.ubcMark_power (s : State) : (ubcMark s).power = s.power := rfl
@[simp] theorem State.ubcMark_flash (s : State) : (ubcMark s).flash = s.flash := rfl
@[simp] theorem State.ubcMark_aud (s : State) : (ubcMark s).aud = s.aud := rfl
@[simp] theorem State.ubcMark_windows (s : State) : (ubcMark s).windows = s.windows := rfl
@[simp] theorem State.ubcMark_draws (s : State) : (ubcMark s).draws = s.draws := rfl
@[simp] theorem State.ubcMark_agenda (s : State) : (ubcMark s).agenda = s.agenda := rfl
@[simp] theorem State.ubcMark_inner (s : State) : (ubcMark s).inner = s.inner := rfl
@[simp] theorem State.ubcMark_turn (s : State) : (ubcMark s).turn = s.turn := rfl

@[simp] theorem State.ubcCancel_regs (s : State) (k : Bool) : (ubcCancel k s).regs = s.regs := rfl
@[simp] theorem State.ubcCancel_sr (s : State) (k : Bool) : (ubcCancel k s).sr = s.sr := rfl
@[simp] theorem State.ubcCancel_gbr (s : State) (k : Bool) : (ubcCancel k s).gbr = s.gbr := rfl
@[simp] theorem State.ubcCancel_vbr (s : State) (k : Bool) : (ubcCancel k s).vbr = s.vbr := rfl
@[simp] theorem State.ubcCancel_mach (s : State) (k : Bool) : (ubcCancel k s).mach = s.mach := rfl
@[simp] theorem State.ubcCancel_macl (s : State) (k : Bool) : (ubcCancel k s).macl = s.macl := rfl
@[simp] theorem State.ubcCancel_pr (s : State) (k : Bool) : (ubcCancel k s).pr = s.pr := rfl
@[simp] theorem State.ubcCancel_pc (s : State) (k : Bool) : (ubcCancel k s).pc = s.pc := rfl
@[simp] theorem State.ubcCancel_slot (s : State) (k : Bool) : (ubcCancel k s).slot = s.slot := rfl
@[simp] theorem State.ubcCancel_irqBlock (s : State) (k : Bool) : (ubcCancel k s).irqBlock = s.irqBlock := rfl
@[simp] theorem State.ubcCancel_proc (s : State) (k : Bool) : (ubcCancel k s).proc = s.proc := rfl
@[simp] theorem State.ubcCancel_mem (s : State) (k : Bool) : (ubcCancel k s).mem = s.mem := rfl
@[simp] theorem State.ubcCancel_bootMat (s : State) (k : Bool) : (ubcCancel k s).bootMat = s.bootMat := rfl
@[simp] theorem State.ubcCancel_ramEpoch (s : State) (k : Bool) : (ubcCancel k s).ramEpoch = s.ramEpoch := rfl
@[simp] theorem State.ubcCancel_part (s : State) (k : Bool) : (ubcCancel k s).part = s.part := rfl
@[simp] theorem State.ubcCancel_mode (s : State) (k : Bool) : (ubcCancel k s).mode = s.mode := rfl
@[simp] theorem State.ubcCancel_pins (s : State) (k : Bool) : (ubcCancel k s).pins = s.pins := rfl
@[simp] theorem State.ubcCancel_lines (s : State) (k : Bool) : (ubcCancel k s).lines = s.lines := rfl
@[simp] theorem State.ubcCancel_intc (s : State) (k : Bool) : (ubcCancel k s).intc = s.intc := rfl
@[simp] theorem State.ubcCancel_dtc (s : State) (k : Bool) : (ubcCancel k s).dtc = s.dtc := rfl
@[simp] theorem State.ubcCancel_bsc (s : State) (k : Bool) : (ubcCancel k s).bsc = s.bsc := rfl
@[simp] theorem State.ubcCancel_cpg (s : State) (k : Bool) : (ubcCancel k s).cpg = s.cpg := rfl
@[simp] theorem State.ubcCancel_wdt (s : State) (k : Bool) : (ubcCancel k s).wdt = s.wdt := rfl
@[simp] theorem State.ubcCancel_cmt (s : State) (k : Bool) : (ubcCancel k s).cmt = s.cmt := rfl
@[simp] theorem State.ubcCancel_power (s : State) (k : Bool) : (ubcCancel k s).power = s.power := rfl
@[simp] theorem State.ubcCancel_flash (s : State) (k : Bool) : (ubcCancel k s).flash = s.flash := rfl
@[simp] theorem State.ubcCancel_aud (s : State) (k : Bool) : (ubcCancel k s).aud = s.aud := rfl
@[simp] theorem State.ubcCancel_windows (s : State) (k : Bool) : (ubcCancel k s).windows = s.windows := rfl
@[simp] theorem State.ubcCancel_draws (s : State) (k : Bool) : (ubcCancel k s).draws = s.draws := rfl
@[simp] theorem State.ubcCancel_agenda (s : State) (k : Bool) : (ubcCancel k s).agenda = s.agenda := rfl
@[simp] theorem State.ubcCancel_inner (s : State) (k : Bool) : (ubcCancel k s).inner = s.inner := rfl
@[simp] theorem State.ubcCancel_turn (s : State) (k : Bool) : (ubcCancel k s).turn = s.turn := rfl

@[simp] theorem State.ubcNote_regs (s : State) (b : Bool) (f : UbcMatch → UbcMatch) : (ubcNote b f s).regs = s.regs := rfl
@[simp] theorem State.ubcNote_sr (s : State) (b : Bool) (f : UbcMatch → UbcMatch) : (ubcNote b f s).sr = s.sr := rfl
@[simp] theorem State.ubcNote_gbr (s : State) (b : Bool) (f : UbcMatch → UbcMatch) : (ubcNote b f s).gbr = s.gbr := rfl
@[simp] theorem State.ubcNote_vbr (s : State) (b : Bool) (f : UbcMatch → UbcMatch) : (ubcNote b f s).vbr = s.vbr := rfl
@[simp] theorem State.ubcNote_mach (s : State) (b : Bool) (f : UbcMatch → UbcMatch) : (ubcNote b f s).mach = s.mach := rfl
@[simp] theorem State.ubcNote_macl (s : State) (b : Bool) (f : UbcMatch → UbcMatch) : (ubcNote b f s).macl = s.macl := rfl
@[simp] theorem State.ubcNote_pr (s : State) (b : Bool) (f : UbcMatch → UbcMatch) : (ubcNote b f s).pr = s.pr := rfl
@[simp] theorem State.ubcNote_pc (s : State) (b : Bool) (f : UbcMatch → UbcMatch) : (ubcNote b f s).pc = s.pc := rfl
@[simp] theorem State.ubcNote_slot (s : State) (b : Bool) (f : UbcMatch → UbcMatch) : (ubcNote b f s).slot = s.slot := rfl
@[simp] theorem State.ubcNote_irqBlock (s : State) (b : Bool) (f : UbcMatch → UbcMatch) : (ubcNote b f s).irqBlock = s.irqBlock := rfl
@[simp] theorem State.ubcNote_proc (s : State) (b : Bool) (f : UbcMatch → UbcMatch) : (ubcNote b f s).proc = s.proc := rfl
@[simp] theorem State.ubcNote_mem (s : State) (b : Bool) (f : UbcMatch → UbcMatch) : (ubcNote b f s).mem = s.mem := rfl
@[simp] theorem State.ubcNote_bootMat (s : State) (b : Bool) (f : UbcMatch → UbcMatch) : (ubcNote b f s).bootMat = s.bootMat := rfl
@[simp] theorem State.ubcNote_ramEpoch (s : State) (b : Bool) (f : UbcMatch → UbcMatch) : (ubcNote b f s).ramEpoch = s.ramEpoch := rfl
@[simp] theorem State.ubcNote_part (s : State) (b : Bool) (f : UbcMatch → UbcMatch) : (ubcNote b f s).part = s.part := rfl
@[simp] theorem State.ubcNote_mode (s : State) (b : Bool) (f : UbcMatch → UbcMatch) : (ubcNote b f s).mode = s.mode := rfl
@[simp] theorem State.ubcNote_pins (s : State) (b : Bool) (f : UbcMatch → UbcMatch) : (ubcNote b f s).pins = s.pins := rfl
@[simp] theorem State.ubcNote_lines (s : State) (b : Bool) (f : UbcMatch → UbcMatch) : (ubcNote b f s).lines = s.lines := rfl
@[simp] theorem State.ubcNote_intc (s : State) (b : Bool) (f : UbcMatch → UbcMatch) : (ubcNote b f s).intc = s.intc := rfl
@[simp] theorem State.ubcNote_dtc (s : State) (b : Bool) (f : UbcMatch → UbcMatch) : (ubcNote b f s).dtc = s.dtc := rfl
@[simp] theorem State.ubcNote_bsc (s : State) (b : Bool) (f : UbcMatch → UbcMatch) : (ubcNote b f s).bsc = s.bsc := rfl
@[simp] theorem State.ubcNote_cpg (s : State) (b : Bool) (f : UbcMatch → UbcMatch) : (ubcNote b f s).cpg = s.cpg := rfl
@[simp] theorem State.ubcNote_wdt (s : State) (b : Bool) (f : UbcMatch → UbcMatch) : (ubcNote b f s).wdt = s.wdt := rfl
@[simp] theorem State.ubcNote_cmt (s : State) (b : Bool) (f : UbcMatch → UbcMatch) : (ubcNote b f s).cmt = s.cmt := rfl
@[simp] theorem State.ubcNote_power (s : State) (b : Bool) (f : UbcMatch → UbcMatch) : (ubcNote b f s).power = s.power := rfl
@[simp] theorem State.ubcNote_flash (s : State) (b : Bool) (f : UbcMatch → UbcMatch) : (ubcNote b f s).flash = s.flash := rfl
@[simp] theorem State.ubcNote_aud (s : State) (b : Bool) (f : UbcMatch → UbcMatch) : (ubcNote b f s).aud = s.aud := rfl
@[simp] theorem State.ubcNote_windows (s : State) (b : Bool) (f : UbcMatch → UbcMatch) : (ubcNote b f s).windows = s.windows := rfl
@[simp] theorem State.ubcNote_draws (s : State) (b : Bool) (f : UbcMatch → UbcMatch) : (ubcNote b f s).draws = s.draws := rfl
@[simp] theorem State.ubcNote_agenda (s : State) (b : Bool) (f : UbcMatch → UbcMatch) : (ubcNote b f s).agenda = s.agenda := rfl
@[simp] theorem State.ubcNote_inner (s : State) (b : Bool) (f : UbcMatch → UbcMatch) : (ubcNote b f s).inner = s.inner := rfl
@[simp] theorem State.ubcNote_turn (s : State) (b : Bool) (f : UbcMatch → UbcMatch) : (ubcNote b f s).turn = s.turn := rfl

@[simp] theorem State.requestBreak_regs (s : State) : (requestBreak s).regs = s.regs := rfl
@[simp] theorem State.requestBreak_sr (s : State) : (requestBreak s).sr = s.sr := rfl
@[simp] theorem State.requestBreak_gbr (s : State) : (requestBreak s).gbr = s.gbr := rfl
@[simp] theorem State.requestBreak_vbr (s : State) : (requestBreak s).vbr = s.vbr := rfl
@[simp] theorem State.requestBreak_mach (s : State) : (requestBreak s).mach = s.mach := rfl
@[simp] theorem State.requestBreak_macl (s : State) : (requestBreak s).macl = s.macl := rfl
@[simp] theorem State.requestBreak_pr (s : State) : (requestBreak s).pr = s.pr := rfl
@[simp] theorem State.requestBreak_pc (s : State) : (requestBreak s).pc = s.pc := rfl
@[simp] theorem State.requestBreak_slot (s : State) : (requestBreak s).slot = s.slot := rfl
@[simp] theorem State.requestBreak_irqBlock (s : State) : (requestBreak s).irqBlock = s.irqBlock := rfl
@[simp] theorem State.requestBreak_proc (s : State) : (requestBreak s).proc = s.proc := rfl
@[simp] theorem State.requestBreak_mem (s : State) : (requestBreak s).mem = s.mem := rfl
@[simp] theorem State.requestBreak_bootMat (s : State) : (requestBreak s).bootMat = s.bootMat := rfl
@[simp] theorem State.requestBreak_ramEpoch (s : State) : (requestBreak s).ramEpoch = s.ramEpoch := rfl
@[simp] theorem State.requestBreak_part (s : State) : (requestBreak s).part = s.part := rfl
@[simp] theorem State.requestBreak_mode (s : State) : (requestBreak s).mode = s.mode := rfl
@[simp] theorem State.requestBreak_pins (s : State) : (requestBreak s).pins = s.pins := rfl
@[simp] theorem State.requestBreak_lines (s : State) : (requestBreak s).lines = s.lines := rfl
@[simp] theorem State.requestBreak_intc (s : State) : (requestBreak s).intc = s.intc := rfl
@[simp] theorem State.requestBreak_dtc (s : State) : (requestBreak s).dtc = s.dtc := rfl
@[simp] theorem State.requestBreak_bsc (s : State) : (requestBreak s).bsc = s.bsc := rfl
@[simp] theorem State.requestBreak_cpg (s : State) : (requestBreak s).cpg = s.cpg := rfl
@[simp] theorem State.requestBreak_wdt (s : State) : (requestBreak s).wdt = s.wdt := rfl
@[simp] theorem State.requestBreak_cmt (s : State) : (requestBreak s).cmt = s.cmt := rfl
@[simp] theorem State.requestBreak_power (s : State) : (requestBreak s).power = s.power := rfl
@[simp] theorem State.requestBreak_flash (s : State) : (requestBreak s).flash = s.flash := rfl
@[simp] theorem State.requestBreak_aud (s : State) : (requestBreak s).aud = s.aud := rfl
@[simp] theorem State.requestBreak_windows (s : State) : (requestBreak s).windows = s.windows := rfl
@[simp] theorem State.requestBreak_draws (s : State) : (requestBreak s).draws = s.draws := rfl
@[simp] theorem State.requestBreak_agenda (s : State) : (requestBreak s).agenda = s.agenda := rfl
@[simp] theorem State.requestBreak_inner (s : State) : (requestBreak s).inner = s.inner := rfl
@[simp] theorem State.requestBreak_turn (s : State) : (requestBreak s).turn = s.turn := rfl

@[simp] theorem State.setReg_flagT (s : State) (n : Reg) (v : Word) : (s.setReg n v).flagT = s.flagT := rfl
@[simp] theorem State.setReg_flagS (s : State) (n : Reg) (v : Word) : (s.setReg n v).flagS = s.flagS := rfl
@[simp] theorem State.setReg_flagQ (s : State) (n : Reg) (v : Word) : (s.setReg n v).flagQ = s.flagQ := rfl
@[simp] theorem State.setReg_flagM (s : State) (n : Reg) (v : Word) : (s.setReg n v).flagM = s.flagM := rfl
@[simp] theorem State.setReg_byteAt (s : State) (n : Reg) (v : Word) (a : Nat) : (s.setReg n v).byteAt a = s.byteAt a := rfl
@[simp] theorem State.setT_reg (s : State) (b : Bool) (r : Reg) : (s.setT b).reg r = s.reg r := rfl
@[simp] theorem State.setT_byteAt (s : State) (b : Bool) (a : Nat) : (s.setT b).byteAt a = s.byteAt a := rfl
@[simp] theorem State.setQ_reg (s : State) (b : Bool) (r : Reg) : (s.setQ b).reg r = s.reg r := rfl
@[simp] theorem State.setQ_byteAt (s : State) (b : Bool) (a : Nat) : (s.setQ b).byteAt a = s.byteAt a := rfl
@[simp] theorem State.setM_reg (s : State) (b : Bool) (r : Reg) : (s.setM b).reg r = s.reg r := rfl
@[simp] theorem State.setM_byteAt (s : State) (b : Bool) (a : Nat) : (s.setM b).byteAt a = s.byteAt a := rfl
@[simp] theorem State.setRegT_byteAt (s : State) (n : Reg) (v : Word) (b : Bool) (a : Nat) : (s.setRegT n v b).byteAt a = s.byteAt a := rfl
@[simp] theorem State.writeSr_reg (s : State) (v : Word) (r : Reg) : (s.writeSr v).reg r = s.reg r := rfl
@[simp] theorem State.writeSr_byteAt (s : State) (v : Word) (a : Nat) : (s.writeSr v).byteAt a = s.byteAt a := rfl
@[simp] theorem State.setMac_reg (s : State) (v : BitVec 64) (r : Reg) : (s.setMac v).reg r = s.reg r := rfl
@[simp] theorem State.setMac_flagT (s : State) (v : BitVec 64) : (s.setMac v).flagT = s.flagT := rfl
@[simp] theorem State.setMac_flagS (s : State) (v : BitVec 64) : (s.setMac v).flagS = s.flagS := rfl
@[simp] theorem State.setMac_flagQ (s : State) (v : BitVec 64) : (s.setMac v).flagQ = s.flagQ := rfl
@[simp] theorem State.setMac_flagM (s : State) (v : BitVec 64) : (s.setMac v).flagM = s.flagM := rfl
@[simp] theorem State.setMac_byteAt (s : State) (v : BitVec 64) (a : Nat) : (s.setMac v).byteAt a = s.byteAt a := rfl
@[simp] theorem State.drawWord_reg (s : State) (r : Reg) : (s.drawWord.2).reg r = s.reg r := rfl
@[simp] theorem State.drawWord_flagT (s : State) : (s.drawWord.2).flagT = s.flagT := rfl
@[simp] theorem State.drawWord_flagS (s : State) : (s.drawWord.2).flagS = s.flagS := rfl
@[simp] theorem State.drawWord_flagQ (s : State) : (s.drawWord.2).flagQ = s.flagQ := rfl
@[simp] theorem State.drawWord_flagM (s : State) : (s.drawWord.2).flagM = s.flagM := rfl
@[simp] theorem State.drawWord_byteAt (s : State) (a : Nat) : (s.drawWord.2).byteAt a = s.byteAt a := rfl
@[simp] theorem State.drawBit_reg (s : State) (r : Reg) : (s.drawBit.2).reg r = s.reg r := rfl
@[simp] theorem State.drawBit_flagT (s : State) : (s.drawBit.2).flagT = s.flagT := rfl
@[simp] theorem State.drawBit_flagS (s : State) : (s.drawBit.2).flagS = s.flagS := rfl
@[simp] theorem State.drawBit_flagQ (s : State) : (s.drawBit.2).flagQ = s.flagQ := rfl
@[simp] theorem State.drawBit_flagM (s : State) : (s.drawBit.2).flagM = s.flagM := rfl
@[simp] theorem State.drawBit_byteAt (s : State) (a : Nat) : (s.drawBit.2).byteAt a = s.byteAt a := rfl
@[simp] theorem State.drawValue_reg (s : State) (z : Size) (r : Reg) : ((s.drawValue z).2).reg r = s.reg r := rfl
@[simp] theorem State.drawValue_flagT (s : State) (z : Size) : ((s.drawValue z).2).flagT = s.flagT := rfl
@[simp] theorem State.drawValue_flagS (s : State) (z : Size) : ((s.drawValue z).2).flagS = s.flagS := rfl
@[simp] theorem State.drawValue_flagQ (s : State) (z : Size) : ((s.drawValue z).2).flagQ = s.flagQ := rfl
@[simp] theorem State.drawValue_flagM (s : State) (z : Size) : ((s.drawValue z).2).flagM = s.flagM := rfl
@[simp] theorem State.drawValue_byteAt (s : State) (z : Size) (a : Nat) : ((s.drawValue z).2).byteAt a = s.byteAt a := rfl
@[simp] theorem State.store_reg (s : State) (z : Size) (a : Nat) (v : Word) (r : Reg) : (s.store z a v).reg r = s.reg r := rfl
@[simp] theorem State.store_flagT (s : State) (z : Size) (a : Nat) (v : Word) : (s.store z a v).flagT = s.flagT := rfl
@[simp] theorem State.store_flagS (s : State) (z : Size) (a : Nat) (v : Word) : (s.store z a v).flagS = s.flagS := rfl
@[simp] theorem State.store_flagQ (s : State) (z : Size) (a : Nat) (v : Word) : (s.store z a v).flagQ = s.flagQ := rfl
@[simp] theorem State.store_flagM (s : State) (z : Size) (a : Nat) (v : Word) : (s.store z a v).flagM = s.flagM := rfl
@[simp] theorem State.clearStale_reg (s : State) (r : Reg) : (clearStale s).reg r = s.reg r := rfl
@[simp] theorem State.clearStale_flagT (s : State) : (clearStale s).flagT = s.flagT := rfl
@[simp] theorem State.clearStale_flagS (s : State) : (clearStale s).flagS = s.flagS := rfl
@[simp] theorem State.clearStale_flagQ (s : State) : (clearStale s).flagQ = s.flagQ := rfl
@[simp] theorem State.clearStale_flagM (s : State) : (clearStale s).flagM = s.flagM := rfl
@[simp] theorem State.clearStale_byteAt (s : State) (a : Nat) : (clearStale s).byteAt a = s.byteAt a := rfl
@[simp] theorem State.tickWindows_reg (s : State) (r : Reg) : (tickWindows s).reg r = s.reg r := rfl
@[simp] theorem State.tickWindows_flagT (s : State) : (tickWindows s).flagT = s.flagT := rfl
@[simp] theorem State.tickWindows_flagS (s : State) : (tickWindows s).flagS = s.flagS := rfl
@[simp] theorem State.tickWindows_flagQ (s : State) : (tickWindows s).flagQ = s.flagQ := rfl
@[simp] theorem State.tickWindows_flagM (s : State) : (tickWindows s).flagM = s.flagM := rfl
@[simp] theorem State.tickWindows_byteAt (s : State) (a : Nat) : (tickWindows s).byteAt a = s.byteAt a := rfl
@[simp] theorem State.ubcMark_reg (s : State) (r : Reg) : (ubcMark s).reg r = s.reg r := rfl
@[simp] theorem State.ubcMark_flagT (s : State) : (ubcMark s).flagT = s.flagT := rfl
@[simp] theorem State.ubcMark_flagS (s : State) : (ubcMark s).flagS = s.flagS := rfl
@[simp] theorem State.ubcMark_flagQ (s : State) : (ubcMark s).flagQ = s.flagQ := rfl
@[simp] theorem State.ubcMark_flagM (s : State) : (ubcMark s).flagM = s.flagM := rfl
@[simp] theorem State.ubcMark_byteAt (s : State) (a : Nat) : (ubcMark s).byteAt a = s.byteAt a := rfl
@[simp] theorem State.ubcCancel_reg (s : State) (k : Bool) (r : Reg) : (ubcCancel k s).reg r = s.reg r := rfl
@[simp] theorem State.ubcCancel_flagT (s : State) (k : Bool) : (ubcCancel k s).flagT = s.flagT := rfl
@[simp] theorem State.ubcCancel_flagS (s : State) (k : Bool) : (ubcCancel k s).flagS = s.flagS := rfl
@[simp] theorem State.ubcCancel_flagQ (s : State) (k : Bool) : (ubcCancel k s).flagQ = s.flagQ := rfl
@[simp] theorem State.ubcCancel_flagM (s : State) (k : Bool) : (ubcCancel k s).flagM = s.flagM := rfl
@[simp] theorem State.ubcCancel_byteAt (s : State) (k : Bool) (a : Nat) : (ubcCancel k s).byteAt a = s.byteAt a := rfl
@[simp] theorem State.ubcNote_reg (s : State) (b : Bool) (f : UbcMatch → UbcMatch) (r : Reg) : (ubcNote b f s).reg r = s.reg r := rfl
@[simp] theorem State.ubcNote_flagT (s : State) (b : Bool) (f : UbcMatch → UbcMatch) : (ubcNote b f s).flagT = s.flagT := rfl
@[simp] theorem State.ubcNote_flagS (s : State) (b : Bool) (f : UbcMatch → UbcMatch) : (ubcNote b f s).flagS = s.flagS := rfl
@[simp] theorem State.ubcNote_flagQ (s : State) (b : Bool) (f : UbcMatch → UbcMatch) : (ubcNote b f s).flagQ = s.flagQ := rfl
@[simp] theorem State.ubcNote_flagM (s : State) (b : Bool) (f : UbcMatch → UbcMatch) : (ubcNote b f s).flagM = s.flagM := rfl
@[simp] theorem State.ubcNote_byteAt (s : State) (b : Bool) (f : UbcMatch → UbcMatch) (a : Nat) : (ubcNote b f s).byteAt a = s.byteAt a := rfl
@[simp] theorem State.requestBreak_reg (s : State) (r : Reg) : (requestBreak s).reg r = s.reg r := rfl
@[simp] theorem State.requestBreak_flagT (s : State) : (requestBreak s).flagT = s.flagT := rfl
@[simp] theorem State.requestBreak_flagS (s : State) : (requestBreak s).flagS = s.flagS := rfl
@[simp] theorem State.requestBreak_flagQ (s : State) : (requestBreak s).flagQ = s.flagQ := rfl
@[simp] theorem State.requestBreak_flagM (s : State) : (requestBreak s).flagM = s.flagM := rfl
@[simp] theorem State.requestBreak_byteAt (s : State) (a : Nat) : (requestBreak s).byteAt a = s.byteAt a := rfl

@[simp] theorem State.setReg_mac (s : State) (n : Reg) (v : Word) : (s.setReg n v).mac = s.mac := rfl

/-- Reading the register just written. -/
@[simp] theorem State.reg_setReg_same (s : State) (n : Reg) (v : Word) : (s.setReg n v).reg n = v := by
  simp [State.reg, State.setReg]

/-- Reading another register. -/
theorem State.reg_setReg_ne (s : State) {n r : Reg} (v : Word) (h : r ≠ n) : (s.setReg n v).reg r = s.reg r := by
  have : n.toNat ≠ r.toNat := fun e => h (BitVec.eq_of_toNat_eq e.symm)
  simp [State.reg, State.setReg, Vector.getElem_set_ne, this]

/-- Reading any register after a write. -/
theorem State.reg_setReg (s : State) (n r : Reg) (v : Word) :
    (s.setReg n v).reg r = if r = n then v else s.reg r := by
  split
  · next h => subst h; simp
  · next h => exact s.reg_setReg_ne v h

/-- A bit of a word after one bit was replaced. -/
theorem bitOf_withBit {w : Nat} (v : BitVec w) (k j : Nat) (b : Bool) (h : k < w) :
    bitOf (withBit v k b) j = if j = k then b else bitOf v j := by
  unfold bitOf withBit
  have hone : (BitVec.ofNat w 1).getLsbD (j - k) = (decide (0 < w) && decide (j - k = 0)) := BitVec.getLsbD_one
  cases b <;> by_cases hj : j = k <;>
    simp only [Bool.false_eq_true, if_false, if_true, BitVec.getLsbD_and, BitVec.getLsbD_or, BitVec.getLsbD_not,
      BitVec.getLsbD_shiftLeft, hone, hj] <;>
    by_cases hw : j < w <;> simp_all <;> omega

@[simp] theorem State.setT_flagT (s : State) (b : Bool) : (s.setT b).flagT = b := by
  simp [State.flagT, State.setT, bitOf_withBit]

@[simp] theorem State.setRegT_flagT (s : State) (n : Reg) (v : Word) (b : Bool) : (s.setRegT n v b).flagT = b := by
  simp [State.setRegT]

/-- The register file after a write that also sets T. -/
theorem State.reg_setRegT (s : State) (n r : Reg) (v : Word) (b : Bool) :
    (s.setRegT n v b).reg r = if r = n then v else s.reg r := s.reg_setReg n r v

/-- Setting T leaves every other bit of SR. -/
theorem State.setT_bit (s : State) (b : Bool) {k : Nat} (h : k ≠ 0) : bitOf (s.setT b).sr k = bitOf s.sr k := by
  simp [State.setT, bitOf_withBit, h]

@[simp] theorem State.setMac_mac (s : State) (v : BitVec 64) : (s.setMac v).mac = v := by
  unfold State.mac State.setMac
  exact BitVec.eq_of_getLsbD_eq (fun i _ => by
    rw [BitVec.getLsbD_append]
    by_cases h : i < 32
    · simp [h]
    · have : i - 32 < 32 := by omega
      have : 32 + (i - 32) = i := by omega
      simp_all)

/-- The PC trace touches nothing but its queue. -/
theorem pcTrace_eq (src dst : Word) (s : State) : ∃ q, pcTrace src dst s = { s with ubc := { s.ubc with trace := q } } := by
  unfold pcTrace
  split
  · exact ⟨_, rfl⟩
  · exact ⟨s.ubc.trace, rfl⟩

@[simp] theorem pcTrace_regs (src dst : Word) (s : State) : (pcTrace src dst s).regs = s.regs := by
  obtain ⟨q, h⟩ := pcTrace_eq src dst s; rw [h]
@[simp] theorem pcTrace_sr (src dst : Word) (s : State) : (pcTrace src dst s).sr = s.sr := by
  obtain ⟨q, h⟩ := pcTrace_eq src dst s; rw [h]
@[simp] theorem pcTrace_gbr (src dst : Word) (s : State) : (pcTrace src dst s).gbr = s.gbr := by
  obtain ⟨q, h⟩ := pcTrace_eq src dst s; rw [h]
@[simp] theorem pcTrace_vbr (src dst : Word) (s : State) : (pcTrace src dst s).vbr = s.vbr := by
  obtain ⟨q, h⟩ := pcTrace_eq src dst s; rw [h]
@[simp] theorem pcTrace_mach (src dst : Word) (s : State) : (pcTrace src dst s).mach = s.mach := by
  obtain ⟨q, h⟩ := pcTrace_eq src dst s; rw [h]
@[simp] theorem pcTrace_macl (src dst : Word) (s : State) : (pcTrace src dst s).macl = s.macl := by
  obtain ⟨q, h⟩ := pcTrace_eq src dst s; rw [h]
@[simp] theorem pcTrace_pr (src dst : Word) (s : State) : (pcTrace src dst s).pr = s.pr := by
  obtain ⟨q, h⟩ := pcTrace_eq src dst s; rw [h]
@[simp] theorem pcTrace_pc (src dst : Word) (s : State) : (pcTrace src dst s).pc = s.pc := by
  obtain ⟨q, h⟩ := pcTrace_eq src dst s; rw [h]
@[simp] theorem pcTrace_slot (src dst : Word) (s : State) : (pcTrace src dst s).slot = s.slot := by
  obtain ⟨q, h⟩ := pcTrace_eq src dst s; rw [h]
@[simp] theorem pcTrace_irqBlock (src dst : Word) (s : State) : (pcTrace src dst s).irqBlock = s.irqBlock := by
  obtain ⟨q, h⟩ := pcTrace_eq src dst s; rw [h]
@[simp] theorem pcTrace_proc (src dst : Word) (s : State) : (pcTrace src dst s).proc = s.proc := by
  obtain ⟨q, h⟩ := pcTrace_eq src dst s; rw [h]
@[simp] theorem pcTrace_mem (src dst : Word) (s : State) : (pcTrace src dst s).mem = s.mem := by
  obtain ⟨q, h⟩ := pcTrace_eq src dst s; rw [h]
@[simp] theorem pcTrace_bootMat (src dst : Word) (s : State) : (pcTrace src dst s).bootMat = s.bootMat := by
  obtain ⟨q, h⟩ := pcTrace_eq src dst s; rw [h]
@[simp] theorem pcTrace_ramEpoch (src dst : Word) (s : State) : (pcTrace src dst s).ramEpoch = s.ramEpoch := by
  obtain ⟨q, h⟩ := pcTrace_eq src dst s; rw [h]
@[simp] theorem pcTrace_part (src dst : Word) (s : State) : (pcTrace src dst s).part = s.part := by
  obtain ⟨q, h⟩ := pcTrace_eq src dst s; rw [h]
@[simp] theorem pcTrace_mode (src dst : Word) (s : State) : (pcTrace src dst s).mode = s.mode := by
  obtain ⟨q, h⟩ := pcTrace_eq src dst s; rw [h]
@[simp] theorem pcTrace_pins (src dst : Word) (s : State) : (pcTrace src dst s).pins = s.pins := by
  obtain ⟨q, h⟩ := pcTrace_eq src dst s; rw [h]
@[simp] theorem pcTrace_lines (src dst : Word) (s : State) : (pcTrace src dst s).lines = s.lines := by
  obtain ⟨q, h⟩ := pcTrace_eq src dst s; rw [h]
@[simp] theorem pcTrace_intc (src dst : Word) (s : State) : (pcTrace src dst s).intc = s.intc := by
  obtain ⟨q, h⟩ := pcTrace_eq src dst s; rw [h]
@[simp] theorem pcTrace_dtc (src dst : Word) (s : State) : (pcTrace src dst s).dtc = s.dtc := by
  obtain ⟨q, h⟩ := pcTrace_eq src dst s; rw [h]
@[simp] theorem pcTrace_bsc (src dst : Word) (s : State) : (pcTrace src dst s).bsc = s.bsc := by
  obtain ⟨q, h⟩ := pcTrace_eq src dst s; rw [h]
@[simp] theorem pcTrace_cpg (src dst : Word) (s : State) : (pcTrace src dst s).cpg = s.cpg := by
  obtain ⟨q, h⟩ := pcTrace_eq src dst s; rw [h]
@[simp] theorem pcTrace_wdt (src dst : Word) (s : State) : (pcTrace src dst s).wdt = s.wdt := by
  obtain ⟨q, h⟩ := pcTrace_eq src dst s; rw [h]
@[simp] theorem pcTrace_cmt (src dst : Word) (s : State) : (pcTrace src dst s).cmt = s.cmt := by
  obtain ⟨q, h⟩ := pcTrace_eq src dst s; rw [h]
@[simp] theorem pcTrace_power (src dst : Word) (s : State) : (pcTrace src dst s).power = s.power := by
  obtain ⟨q, h⟩ := pcTrace_eq src dst s; rw [h]
@[simp] theorem pcTrace_flash (src dst : Word) (s : State) : (pcTrace src dst s).flash = s.flash := by
  obtain ⟨q, h⟩ := pcTrace_eq src dst s; rw [h]
@[simp] theorem pcTrace_aud (src dst : Word) (s : State) : (pcTrace src dst s).aud = s.aud := by
  obtain ⟨q, h⟩ := pcTrace_eq src dst s; rw [h]
@[simp] theorem pcTrace_windows (src dst : Word) (s : State) : (pcTrace src dst s).windows = s.windows := by
  obtain ⟨q, h⟩ := pcTrace_eq src dst s; rw [h]
@[simp] theorem pcTrace_draws (src dst : Word) (s : State) : (pcTrace src dst s).draws = s.draws := by
  obtain ⟨q, h⟩ := pcTrace_eq src dst s; rw [h]
@[simp] theorem pcTrace_agenda (src dst : Word) (s : State) : (pcTrace src dst s).agenda = s.agenda := by
  obtain ⟨q, h⟩ := pcTrace_eq src dst s; rw [h]
@[simp] theorem pcTrace_inner (src dst : Word) (s : State) : (pcTrace src dst s).inner = s.inner := by
  obtain ⟨q, h⟩ := pcTrace_eq src dst s; rw [h]
@[simp] theorem pcTrace_turn (src dst : Word) (s : State) : (pcTrace src dst s).turn = s.turn := by
  obtain ⟨q, h⟩ := pcTrace_eq src dst s; rw [h]


@[simp] theorem advance_regs (s : State) : (advance s).regs = s.regs := by
  unfold advance; split <;> simp
@[simp] theorem advance_sr (s : State) : (advance s).sr = s.sr := by
  unfold advance; split <;> simp
@[simp] theorem advance_gbr (s : State) : (advance s).gbr = s.gbr := by
  unfold advance; split <;> simp
@[simp] theorem advance_vbr (s : State) : (advance s).vbr = s.vbr := by
  unfold advance; split <;> simp
@[simp] theorem advance_mach (s : State) : (advance s).mach = s.mach := by
  unfold advance; split <;> simp
@[simp] theorem advance_macl (s : State) : (advance s).macl = s.macl := by
  unfold advance; split <;> simp
@[simp] theorem advance_pr (s : State) : (advance s).pr = s.pr := by
  unfold advance; split <;> simp
@[simp] theorem advance_irqBlock (s : State) : (advance s).irqBlock = s.irqBlock := by
  unfold advance; split <;> simp
@[simp] theorem advance_proc (s : State) : (advance s).proc = s.proc := by
  unfold advance; split <;> simp
@[simp] theorem advance_mem (s : State) : (advance s).mem = s.mem := by
  unfold advance; split <;> simp
@[simp] theorem advance_bootMat (s : State) : (advance s).bootMat = s.bootMat := by
  unfold advance; split <;> simp
@[simp] theorem advance_ramEpoch (s : State) : (advance s).ramEpoch = s.ramEpoch := by
  unfold advance; split <;> simp
@[simp] theorem advance_part (s : State) : (advance s).part = s.part := by
  unfold advance; split <;> simp
@[simp] theorem advance_mode (s : State) : (advance s).mode = s.mode := by
  unfold advance; split <;> simp
@[simp] theorem advance_pins (s : State) : (advance s).pins = s.pins := by
  unfold advance; split <;> simp
@[simp] theorem advance_lines (s : State) : (advance s).lines = s.lines := by
  unfold advance; split <;> simp
@[simp] theorem advance_intc (s : State) : (advance s).intc = s.intc := by
  unfold advance; split <;> simp
@[simp] theorem advance_dtc (s : State) : (advance s).dtc = s.dtc := by
  unfold advance; split <;> simp
@[simp] theorem advance_bsc (s : State) : (advance s).bsc = s.bsc := by
  unfold advance; split <;> simp
@[simp] theorem advance_cpg (s : State) : (advance s).cpg = s.cpg := by
  unfold advance; split <;> simp
@[simp] theorem advance_wdt (s : State) : (advance s).wdt = s.wdt := by
  unfold advance; split <;> simp
@[simp] theorem advance_cmt (s : State) : (advance s).cmt = s.cmt := by
  unfold advance; split <;> simp
@[simp] theorem advance_power (s : State) : (advance s).power = s.power := by
  unfold advance; split <;> simp
@[simp] theorem advance_flash (s : State) : (advance s).flash = s.flash := by
  unfold advance; split <;> simp
@[simp] theorem advance_aud (s : State) : (advance s).aud = s.aud := by
  unfold advance; split <;> simp
@[simp] theorem advance_draws (s : State) : (advance s).draws = s.draws := by
  unfold advance; split <;> simp
@[simp] theorem advance_agenda (s : State) : (advance s).agenda = s.agenda := by
  unfold advance; split <;> simp
@[simp] theorem advance_inner (s : State) : (advance s).inner = s.inner := by
  unfold advance; split <;> simp
@[simp] theorem advance_turn (s : State) : (advance s).turn = s.turn := by
  unfold advance; split <;> simp
/-- After an instruction no slot is open. -/
@[simp] theorem advance_slot (s : State) : (advance s).slot = none := by
  unfold advance
  split
  · assumption
  · simp

/-- Where an instruction goes on: at the next word, or from a delay slot at the branch's target. -/
theorem advance_pc (s : State) : (advance s).pc = (match s.slot with | none => s.pc + 2 | some d => d.target) := by
  unfold advance
  split <;> simp [*]

/-- The end of an instruction leaves the UBC's registers and flags alone. -/
@[simp] theorem advance_ubc_regs (s : State) : (advance s).ubc.regs = s.ubc.regs := by
  unfold advance
  split
  · rfl
  · next d _ =>
    obtain ⟨q, e⟩ := pcTrace_eq d.branch d.target { s with pc := d.target, slot := none }
    simp [e]

@[simp] theorem advance_ubc_live (s : State) : (advance s).ubc.live = s.ubc.live := by
  unfold advance
  split
  · rfl
  · next d _ =>
    obtain ⟨q, e⟩ := pcTrace_eq d.branch d.target { s with pc := d.target, slot := none }
    simp [e]

@[simp] theorem advance_reg (s : State) (r : Reg) : (advance s).reg r = s.reg r := by
  simp [State.reg]

@[simp] theorem advance_byteAt (s : State) (a : Nat) : (advance s).byteAt a = s.byteAt a := by
  simp [State.byteAt]

end Sys2Proof.Machine
end

