-- ==== Sys2Proof/Laws/Memory.lean ====
section
/-! SUPPORT. The laws of storage: what a byte reads as after a write, and that every operation keeps the canonical form of
the memory lists (rules R101, R102). -/

namespace Sys2Proof.Machine

/-- A byte just written reads as written. -/
@[simp] theorem Memory.find_put_same (m : List Host.Cell) (a : Nat) (b : Byte) : Memory.find (Memory.put m a b) a = some b := by
  induction m with
  | nil => simp [Memory.put, Memory.find]
  | cons e m ih =>
    obtain ⟨k, c⟩ := e
    unfold Memory.put
    split
    · simp [Memory.find]
    · split
      · next h => simp [Memory.find, h]
      · next h => simp [Memory.find, h, ih]

/-- A write leaves every other byte. -/
theorem Memory.find_put_ne (m : List Host.Cell) {a x : Nat} (b : Byte) (h : x ≠ a) :
    Memory.find (Memory.put m a b) x = Memory.find m x := by
  induction m with
  | nil => simp [Memory.put, Memory.find, h]
  | cons e m ih =>
    obtain ⟨k, c⟩ := e
    unfold Memory.put
    split
    · simp [Memory.find, h]
    · split
      · next h' => subst h'; simp [Memory.find, h]
      · next h' =>
        by_cases hx : x = k <;> simp [Memory.find, hx, ih]

/-- Writing a list of bytes leaves every byte outside its range. -/
theorem Memory.find_putList_out (bs : List Byte) (m : List Host.Cell) (a x : Nat) (h : x < a ∨ a + bs.length ≤ x) :
    Memory.find (Memory.putList m a bs) x = Memory.find m x := by
  induction bs generalizing m a with
  | nil => rfl
  | cons b bs ih =>
    simp only [List.length_cons] at h
    rw [Memory.putList, ih _ _ (by omega), Memory.find_put_ne _ _ (by omega)]

/-- Writing a list of bytes puts each at its place. -/
theorem Memory.find_putList_in (bs : List Byte) (m : List Host.Cell) (a i : Nat) (h : i < bs.length) :
    Memory.find (Memory.putList m a bs) (a + i) = some bs[i] := by
  induction bs generalizing m a i with
  | nil => simp at h
  | cons b bs ih =>
    rw [Memory.putList]
    cases i with
    | zero => rw [Memory.find_putList_out _ _ _ _ (by omega)]; simp
    | succ i =>
      have := ih (Memory.put m a b) (a + 1) i (by simpa using h)
      rw [show a + 1 + i = a + (i + 1) by omega] at this
      simpa using this

/-- A list in canonical form, taken apart. -/
theorem Memory.wf_cons (k : Nat) (c : Byte) (m : List Host.Cell) :
    Memory.wf ((k, c) :: m) = true ↔ (∀ e ∈ m, k < e.1) ∧ Memory.wf m = true := by
  induction m generalizing k c with
  | nil => simp [Memory.wf]
  | cons e m ih =>
    obtain ⟨l, d⟩ := e
    simp only [Memory.wf, Bool.and_eq_true, decide_eq_true_eq, List.mem_cons, forall_eq_or_imp]
    constructor
    · rintro ⟨h, w⟩
      exact ⟨⟨h, fun e he => lt_trans h (((ih l d).1 w).1 e he)⟩, w⟩
    · rintro ⟨⟨h, _⟩, w⟩
      exact ⟨h, w⟩

/-- The addresses of a list after a write are the old ones and the written one. -/
theorem Memory.mem_put (m : List Host.Cell) (a : Nat) (b : Byte) (e : Host.Cell) (h : e ∈ Memory.put m a b) :
    e.1 = a ∨ ∃ e' ∈ m, e'.1 = e.1 := by
  induction m with
  | nil => simp [Memory.put] at h; exact .inl (by rw [h])
  | cons x m ih =>
    obtain ⟨k, c⟩ := x
    unfold Memory.put at h
    split at h
    · simp only [List.mem_cons] at h
      rcases h with h | h | h
      · exact .inl (by rw [h])
      · exact .inr ⟨(k, c), by simp, by rw [h]⟩
      · exact .inr ⟨e, by simp [h], rfl⟩
    · split at h
      · next hk =>
        rcases List.mem_cons.1 h with h | h
        · exact .inl (by rw [h, hk])
        · exact .inr ⟨e, by simp [h], rfl⟩
      · rcases List.mem_cons.1 h with h | h
        · exact .inr ⟨(k, c), by simp, by rw [h]⟩
        · rcases ih h with h | ⟨e', he, h⟩
          · exact .inl h
          · exact .inr ⟨e', by simp [he], h⟩

/-- A write keeps the canonical form. -/
theorem Memory.wf_put (m : List Host.Cell) (a : Nat) (b : Byte) (h : Memory.wf m = true) :
    Memory.wf (Memory.put m a b) = true := by
  induction m with
  | nil => rfl
  | cons x m ih =>
    obtain ⟨k, c⟩ := x
    obtain ⟨hk, hm⟩ := (Memory.wf_cons k c m).1 h
    unfold Memory.put
    split
    · next ha =>
      refine (Memory.wf_cons _ _ _).2 ⟨?_, h⟩
      intro e he
      rcases List.mem_cons.1 he with he | he
      · rw [he]; exact ha
      · exact lt_trans ha (hk e he)
    · split
      · exact (Memory.wf_cons _ _ _).2 ⟨hk, hm⟩
      · refine (Memory.wf_cons _ _ _).2 ⟨fun e he => ?_, ih hm⟩
        rcases Memory.mem_put m a b e he with h' | ⟨e', he', h'⟩
        · omega
        · rw [← h']; exact hk e' he'

/-- Writing bytes keeps the canonical form. -/
theorem Memory.wf_putList (bs : List Byte) (m : List Host.Cell) (a : Nat) (h : Memory.wf m = true) :
    Memory.wf (Memory.putList m a bs) = true := by
  induction bs generalizing m a with
  | nil => exact h
  | cons b bs ih => exact ih _ _ (Memory.wf_put m a b h)

/-- Dropping bytes keeps the canonical form. -/
theorem Memory.wf_filter (p : Host.Cell → Bool) (m : List Host.Cell) (h : Memory.wf m = true) :
    Memory.wf (m.filter p) = true := by
  induction m with
  | nil => rfl
  | cons x m ih =>
    obtain ⟨k, c⟩ := x
    obtain ⟨hk, hm⟩ := (Memory.wf_cons k c m).1 h
    rw [List.filter_cons]
    split
    · exact (Memory.wf_cons _ _ _).2 ⟨fun e he => hk e (List.mem_filter.1 he).1, ih hm⟩
    · exact ih hm

/-- The memory of the reset state has the canonical form. -/
theorem State.reset_mem_wf : Memory.wf State.reset.mem = true := rfl

@[simp] theorem beBytes_length (z : Size) (v : Word) : (beBytes z v).length = z.bytes := by cases z <;> rfl

/-- A store keeps the canonical form. -/
theorem State.store_wf (s : State) (z : Size) (a : Nat) (v : Word) (h : Memory.wf s.mem = true) :
    Memory.wf (s.store z a v).mem = true := Memory.wf_putList _ _ _ h

/-- A store leaves every byte outside its operand. -/
theorem State.store_byteAt_out (s : State) (z : Size) (a : Nat) (v : Word) (x : Nat) (h : x < a ∨ a + z.bytes ≤ x) :
    (s.store z a v).byteAt x = s.byteAt x := by
  unfold State.byteAt State.store
  rw [Memory.find_putList_out _ _ _ _ (by simpa using h)]

/-- A store puts byte `i` of the operand at its place. -/
theorem State.store_byteAt_in (s : State) (z : Size) (a : Nat) (v : Word) (i : Nat) (h : i < (beBytes z v).length) :
    (s.store z a v).byteAt (a + i) = (beBytes z v)[i] := by
  unfold State.byteAt State.store
  rw [Memory.find_putList_in _ _ _ _ h]
  rfl

/-- A longword as a number. -/
theorem beValue_long_toNat (f : Nat → Byte) :
    (beValue .long f).toNat = 16777216 * (f 0).toNat + 65536 * (f 1).toNat + 256 * (f 2).toNat + (f 3).toNat := by
  have h : (beValue .long f).toNat = (((f 0 ++ f 1 ++ f 2 : BitVec 24) ++ f 3 : BitVec 32)).toNat := rfl
  have h2 : (f 0 ++ f 1 ++ f 2 : BitVec 24).toNat = (((f 0 ++ f 1 : BitVec 16)) ++ f 2 : BitVec 24).toNat := rfl
  have l1 := (f 1).isLt
  have l2 := (f 2).isLt
  have l3 := (f 3).isLt
  rw [h, BitVec.toNat_append, ← Nat.shiftLeft_add_eq_or_of_lt (by omega), h2, BitVec.toNat_append,
    ← Nat.shiftLeft_add_eq_or_of_lt (by omega), BitVec.toNat_append, ← Nat.shiftLeft_add_eq_or_of_lt (by omega)]
  simp only [Nat.shiftLeft_eq]
  omega

/-- A word as a number. -/
theorem beValue_word_toNat (f : Nat → Byte) : (beValue .word f).toNat = 256 * (f 0).toNat + (f 1).toNat := by
  have l0 := (f 0).isLt
  have l1 := (f 1).isLt
  have h : (beValue .word f).toNat = (f 0 ++ f 1).toNat % 2 ^ 32 := BitVec.toNat_setWidth _ _
  rw [h, BitVec.toNat_append, ← Nat.shiftLeft_add_eq_or_of_lt (by omega)]
  simp only [Nat.shiftLeft_eq]
  omega

end Sys2Proof.Machine
end

