-- ==== Sys2Proof/Laws/Access.lean ====
section
/-! SUPPORT. What an access can change: a read leaves the CPU and all of memory as they were, a write leaves the CPU as it
was and memory outside its operand. Cited instead of unfolding the accesses. -/

namespace Sys2Proof.Machine

/-- Everything but the modules of the chip, the memory and the model's own counters is equal. -/
structure SameCpu (s t : State) : Prop where
  regs : t.regs = s.regs
  sr : t.sr = s.sr
  gbr : t.gbr = s.gbr
  vbr : t.vbr = s.vbr
  mach : t.mach = s.mach
  macl : t.macl = s.macl
  pr : t.pr = s.pr
  pc : t.pc = s.pc
  slot : t.slot = s.slot
  irqBlock : t.irqBlock = s.irqBlock
  proc : t.proc = s.proc
  part : t.part = s.part
  mode : t.mode = s.mode
  pins : t.pins = s.pins
  lines : t.lines = s.lines
  bootMat : t.bootMat = s.bootMat
  ramEpoch : t.ramEpoch = s.ramEpoch
  agenda : t.agenda = s.agenda
  inner : t.inner = s.inner
  turn : t.turn = s.turn

/-- As `SameCpu`, and the memory is equal too. -/
structure Same (s t : State) : Prop extends SameCpu s t where
  mem : t.mem = s.mem

theorem Same.refl (s : State) : Same s s := by constructor <;> (try constructor) <;> rfl

theorem SameCpu.refl (s : State) : SameCpu s s := (Same.refl s).toSameCpu

theorem SameCpu.trans {s t u : State} (a : SameCpu s t) (b : SameCpu t u) : SameCpu s u :=
  ⟨b.regs.trans a.regs, b.sr.trans a.sr, b.gbr.trans a.gbr, b.vbr.trans a.vbr, b.mach.trans a.mach,
   b.macl.trans a.macl, b.pr.trans a.pr, b.pc.trans a.pc, b.slot.trans a.slot, b.irqBlock.trans a.irqBlock,
   b.proc.trans a.proc, b.part.trans a.part, b.mode.trans a.mode, b.pins.trans a.pins, b.lines.trans a.lines,
   b.bootMat.trans a.bootMat, b.ramEpoch.trans a.ramEpoch, b.agenda.trans a.agenda, b.inner.trans a.inner,
   b.turn.trans a.turn⟩

theorem Same.trans {s t u : State} (a : Same s t) (b : Same t u) : Same s u :=
  ⟨a.toSameCpu.trans b.toSameCpu, b.mem.trans a.mem⟩

theorem SameCpu.reg {s t : State} (h : SameCpu s t) (r : Reg) : t.reg r = s.reg r := by simp [State.reg, h.regs]

theorem Same.byteAt {s t : State} (h : Same s t) (a : Nat) : t.byteAt a = s.byteAt a := by
  simp [State.byteAt, h.mem, h.part, h.ramEpoch]

/-- The state an access ends in, if it is not a fault, has the property. -/
def Access.Lands {α : Type} (x : Access α) (P : State → Prop) : Prop :=
  match x with
  | .ok _ t => P t
  | .addressError t => P t
  | .stop _ => True

theorem Access.Lands.mono {α : Type} {x : Access α} {P Q : State → Prop} (h : x.Lands P) (i : ∀ t, P t → Q t) :
    x.Lands Q := by
  cases x <;> simp_all [Access.Lands]

theorem Access.Lands.bind {α β : Type} {x : Access α} {f : α → State → Access β} {P Q : State → Prop} (h : x.Lands P)
    (i : ∀ t, P t → Q t) (k : ∀ v t, P t → (f v t).Lands Q) : (x.bind f).Lands Q := by
  cases x with
  | ok v t => exact k v t h
  | addressError t => exact i t h
  | stop f => trivial

theorem drawWord_same (s : State) : Same s s.drawWord.2 := by constructor <;> (try constructor) <;> rfl

theorem drawValue_same (s : State) (z : Size) : Same s (s.drawValue z).2 := drawWord_same s

theorem drawBit_same (s : State) : Same s s.drawBit.2 := by constructor <;> (try constructor) <;> rfl

/-- A change of a module's registers alone. -/
theorem same_intc (s : State) (x : Intc) : Same s { s with intc := x } := by constructor <;> (try constructor) <;> rfl
theorem same_ubc (s : State) (x : Ubc) : Same s { s with ubc := x } := by constructor <;> (try constructor) <;> rfl
theorem same_dtc (s : State) (x : Dtc) : Same s { s with dtc := x } := by constructor <;> (try constructor) <;> rfl
theorem same_bsc (s : State) (x : Bsc) : Same s { s with bsc := x } := by constructor <;> (try constructor) <;> rfl
theorem same_cpg (s : State) (x : Cpg) : Same s { s with cpg := x } := by constructor <;> (try constructor) <;> rfl
theorem same_wdt (s : State) (x : Wdt) : Same s { s with wdt := x } := by constructor <;> (try constructor) <;> rfl
theorem same_cmt (s : State) (x : Cmt) : Same s { s with cmt := x } := by constructor <;> (try constructor) <;> rfl
theorem same_power (s : State) (x : Power) : Same s { s with power := x } := by
  constructor <;> (try constructor) <;> rfl
theorem same_flash (s : State) (x : Flash) : Same s { s with flash := x } := by
  constructor <;> (try constructor) <;> rfl
theorem same_aud (s : State) (x : Aud) : Same s { s with aud := x } := by constructor <;> (try constructor) <;> rfl
theorem same_windows (s : State) (x : Windows) : Same s { s with windows := x } := by
  constructor <;> (try constructor) <;> rfl

/-- Only the UBC and the counter of free values differ. -/
def OnlyUbc (s t : State) : Prop := ∃ u d, t = { s with ubc := u, draws := d }

theorem OnlyUbc.refl (s : State) : OnlyUbc s s := ⟨s.ubc, s.draws, rfl⟩

theorem OnlyUbc.trans {s t u : State} (a : OnlyUbc s t) (b : OnlyUbc t u) : OnlyUbc s u := by
  obtain ⟨u1, d1, rfl⟩ := a
  obtain ⟨u2, d2, rfl⟩ := b
  exact ⟨u2, d2, rfl⟩

theorem OnlyUbc.same {s t : State} (h : OnlyUbc s t) : Same s t := by
  obtain ⟨u, d, rfl⟩ := h
  constructor <;> (try constructor) <;> rfl

theorem only_ubc (s : State) (x : Ubc) : OnlyUbc s { s with ubc := x } := ⟨x, s.draws, rfl⟩

theorem drawBit_only (s : State) : OnlyUbc s s.drawBit.2 := ⟨s.ubc, s.draws + 1, rfl⟩

theorem drawWord_only (s : State) : OnlyUbc s s.drawWord.2 := ⟨s.ubc, s.draws + 1, rfl⟩

theorem ubcNote_only (b : Bool) (f : UbcMatch → UbcMatch) (s : State) : OnlyUbc s (ubcNote b f s) := only_ubc s _

theorem requestBreak_only (s : State) : OnlyUbc s (requestBreak s) := ubcNote_only _ _ s

theorem requestDataBreak_only (b d : Bool) (s : State) : OnlyUbc s (requestDataBreak b d s) := by
  unfold requestDataBreak
  split
  · exact (drawBit_only s).trans (ubcNote_only _ _ _)
  · exact ubcNote_only _ _ s

theorem requestFetchBreak_only (s : State) : OnlyUbc s (requestFetchBreak s) :=
  (drawBit_only s).trans (ubcNote_only _ _ _)

theorem ubcCount_only (b : Bool) (s : State) : OnlyUbc s (ubcCount b s) := by
  unfold ubcCount
  split
  · exact only_ubc s _
  · exact ubcNote_only _ _ s

/-- Matching touches the UBC alone. -/
theorem ubcMet_only (r : UbcRegs) (k i j a b : Bool) (s : State) : OnlyUbc s (ubcMet r k i j a b s).2 := by
  have h (c : Bool) (f : UbcMatch → UbcMatch) : OnlyUbc s (ubcNote k f (if c = true then ubcCount k s else s)) := by
    cases c
    · exact ubcNote_only _ _ _
    · exact (ubcCount_only _ s).trans (ubcNote_only _ _ _)
  unfold ubcMet
  dsimp only
  exact h _ _

theorem settleLag_only (l : List UbcView) (s : State) : OnlyUbc s (settleLag l s).2 := by
  induction l generalizing s with
  | nil => exact OnlyUbc.refl s
  | cons r rest ih =>
    unfold settleLag
    dsimp only
    split
    · exact (drawBit_only s).trans (ih _)
    · exact drawBit_only s

theorem ubcEffective_only (s : State) : OnlyUbc s (ubcEffective s).2 := by
  unfold ubcEffective
  split
  · exact OnlyUbc.refl s
  · exact (settleLag_only _ s).trans (only_ubc _ _)

/-- The UBC's watching touches nothing but the UBC. -/
theorem ubcObserve_only (c : BusCycle) (s : State) : OnlyUbc s (ubcObserve c s) := by
  unfold ubcObserve
  split
  · exact OnlyUbc.refl s
  · have hm (r : UbcRegs) (k i j a b : Bool) : OnlyUbc s (ubcMet r k i j a b (ubcEffective s).2.drawBit.2.drawBit.2).2 :=
      (((ubcEffective_only s).trans (drawBit_only _)).trans (drawBit_only _)).trans (ubcMet_only _ _ _ _ _ _ _)
    dsimp only
    split
    · split
      · exact (hm _ _ _ _ _ _).trans (requestFetchBreak_only _)
      · exact (hm _ _ _ _ _ _).trans (requestDataBreak_only _ _ _)
    · exact hm _ _ _ _ _ _

theorem observeCpu_only (w : Bool) (z : Size) (a v : Word) (s : State) : OnlyUbc s (observeCpu w z a v s) := by
  unfold observeCpu
  dsimp only
  split
  · exact (ubcObserve_only _ s).trans (ubcObserve_only _ _)
  · exact ubcObserve_only _ s

theorem ubcEffective_same (s : State) : Same s (ubcEffective s).2 := (ubcEffective_only s).same

/-- The UBC's watching leaves the CPU and memory alone. -/
theorem ubcObserve_same (c : BusCycle) (s : State) : Same s (ubcObserve c s) := (ubcObserve_only c s).same

theorem observeCpu_same (w : Bool) (z : Size) (a v : Word) (s : State) : Same s (observeCpu w z a v s) :=
  (observeCpu_only w z a v s).same

theorem traceWord_same (b : Bool) (x : BitVec 28) (s : State) : Same s (traceWord b x s).2 := by
  unfold traceWord
  split
  · exact Same.refl s
  · exact drawWord_same s

theorem brsrWord_same (s : State) : Same s (brsrWord s).2 := by
  unfold brsrWord
  split <;> exact traceWord_same _ _ s

theorem brdrWord_same (s : State) : Same s (brdrWord s).2 := by
  unfold brdrWord
  split <;> exact traceWord_same _ _ s

theorem brdrRead_same (s : State) : Same s (brdrRead s).2 := by
  unfold brdrRead
  split
  · exact brdrWord_same s
  · split
    · exact drawWord_same s
    · exact brdrWord_same s

theorem ubcRead_same (id : RegId) (s : State) : Same s (ubcRead id s).2 := by
  unfold ubcRead
  dsimp only
  split
  all_goals first
    | exact Same.refl s
    | exact (brsrWord_same s).trans (same_ubc _ _)
    | exact (brdrRead_same s).trans (same_ubc _ _)

/-- A read-back ends what earlier writes left open, and nothing else changes. -/
theorem ubcReadBack_only (a : Word) (s : State) : OnlyUbc s (ubcReadBack a s) := by
  unfold ubcReadBack
  split
  · exact ⟨_, s.draws, rfl⟩
  · exact OnlyUbc.refl s

theorem intcRead_same (id : RegId) (t : Half) (s : State) : Same s (intcRead id t s).2 := by
  unfold intcRead
  split <;> first | exact Same.refl s | exact same_intc s _

theorem cmtRead_same (id : RegId) (t : Half) (s : State) : Same s (cmtRead id t s).2 := by
  unfold cmtRead
  dsimp only
  split <;> first | exact Same.refl s | exact same_cmt s _

/-- Reading a register leaves the CPU and memory alone. -/
theorem regRead_same (id : RegId) (t : Word) (s : State) : Same s (regRead id t s).2 := by
  unfold regRead
  dsimp only
  split <;>
    first
      | exact Same.refl s
      | exact intcRead_same _ _ s
      | exact ubcRead_same _ s
      | exact cmtRead_same _ _ s
      | exact same_cpg s _
      | exact same_dtc s _
      | exact drawWord_same s

theorem readParts_same (l : List RegPart) (acc : Word) (s : State) : Same s (readParts l acc s).2 := by
  induction l generalizing acc s with
  | nil => exact Same.refl s
  | cons p rest ih =>
    unfold readParts
    exact (regRead_same _ _ s).trans (ih _ _)

theorem periphRead_same (s : State) (z : Size) (a : Nat) : (periphRead s z a).Lands (Same s) := by
  unfold periphRead
  dsimp only
  split
  · split
    · exact Same.refl s
    · exact drawWord_same s
    · trivial
  · split
    · trivial
    · exact readParts_same _ _ s

theorem flashRead_same (s : State) (z : Size) (a : Nat) : Same s (flashRead s z a).2 := by
  have hp : Same s (if 0 < s.windows.fmats then s.drawBit else (decide (s.flash.fmats = 0xAA), s)).2 := by
    split
    · exact drawBit_same s
    · exact Same.refl s
  unfold flashRead
  generalize (if 0 < s.windows.fmats then s.drawBit else (decide (s.flash.fmats = 0xAA), s)) = p at hp
  dsimp only
  split
  · split
    · exact hp
    · exact hp.trans (drawWord_same _)
  · exact hp

theorem ramEnabled_same (s : State) : Same s (ramEnabled s).2 := by
  unfold ramEnabled
  split
  · exact drawBit_same s
  · exact Same.refl s

theorem ramCellRead_same (f : Bool) (s : State) (z : Size) (a : Nat) : (ramCellRead f s z a).Lands (Same s) := by
  have he := ramEnabled_same s
  unfold ramCellRead
  split
  · trivial
  · dsimp only
    split
    · exact he
    · split
      · trivial
      · exact he.trans (drawValue_same _ _)

theorem ramRead_same (f : Bool) (s : State) (z : Size) (a : Nat) : (ramRead f s z a).Lands (Same s) := by
  unfold ramRead
  split
  · dsimp only
    split
    · split
      · trivial
      · exact ((drawBit_same s).trans (drawBit_same _)).trans (flashRead_same _ _ _)
    · exact (ramCellRead_same _ _ _ _).mono (fun t h => (drawBit_same s).trans h)
  · exact ramCellRead_same _ _ _ _

theorem showsRam_same (s : State) (a : Nat) : Same s (showsRam s a).2 := by
  unfold showsRam
  split
  · exact drawBit_same s
  · exact Same.refl s

theorem romRead_same (f : Bool) (s : State) (z : Size) (a : Nat) : (romRead f s z a).Lands (Same s) := by
  unfold romRead
  split
  · trivial
  · split
    · trivial
    · dsimp only
      split
      · exact (ramCellRead_same _ _ _ _).mono (fun t h => (showsRam_same s a).trans h)
      · exact (showsRam_same s a).trans (flashRead_same _ _ _)

theorem externalRead_same (c k : Bool) (s : State) (z : Size) (a : Nat) : (externalRead c k s z a).Lands (Same s) := by
  unfold externalRead
  split
  · trivial
  · split
    · show Same s _
      split
      · exact same_bsc s _
      · exact Same.refl s
    · trivial

/-- A read over the buses leaves the CPU and memory alone. -/
theorem busRead_same (m : Master) (f : Bool) (s : State) (z : Size) (a : Word) : (busRead m f s z a).Lands (Same s) := by
  unfold busRead
  split
  · exact Same.refl s
  · split
    · exact Same.refl s
    · trivial
    · split
      · exact Same.refl s
      · exact periphRead_same s z _
    · exact romRead_same _ _ _ _
    · exact ramRead_same _ _ _ _
    · exact externalRead_same _ _ _ _ _
    · exact externalRead_same _ _ _ _ _

/-- A read of the CPU leaves the CPU's registers and memory alone. -/
theorem cpuRead_same (s : State) (z : Size) (a : Word) : (cpuRead s z a).Lands (Same s) := by
  have h := busRead_same .cpu false s z a
  unfold cpuRead
  split
  · next v t e => rw [e] at h; exact (Same.trans h (observeCpu_same _ _ _ _ _)).trans (ubcReadBack_only _ _).same
  · next t e => rw [e] at h; exact (Same.trans h (drawValue_same _ _)).trans (observeCpu_same _ _ _ _ _)
  · trivial

theorem cpuRead_ok {s t : State} {z : Size} {a v : Word} (h : cpuRead s z a = .ok v t) : Same s t := by
  have := cpuRead_same s z a
  rw [h] at this
  exact this

theorem dtcRead_same (s : State) (z : Size) (a : Word) : (dtcRead s z a).Lands (Same s) := by
  refine Access.Lands.bind (busRead_same .dtc false s z a) (fun t h => h) (fun v t h => ?_)
  exact Same.trans h (ubcObserve_same _ _)

theorem staleChoice_same (l : List Stale) (a : Nat) (h : Half) (s : State) : Same s (staleChoice l a h s).2 := by
  induction l generalizing h s with
  | nil => exact Same.refl s
  | cons e rest ih =>
    unfold staleChoice
    split
    · exact (drawBit_same s).trans (ih _ _)
    · exact ih _ _

/-- A fetch leaves the CPU's registers and memory alone. -/
theorem fetchHalf_same (s : State) (a : Word) : (fetchHalf s a).Lands (Same s) := by
  refine Access.Lands.bind (busRead_same .cpu true s .word a) (fun t h => h) (fun v t h => ?_)
  show Same s _
  split
  · exact (h.trans (staleChoice_same _ _ _ _)).trans (ubcObserve_same _ _)
  · exact h.trans (staleChoice_same _ _ _ _)

theorem ubcSet_same (r : UbcRegs) (b : Option (BitVec 12)) (c : Bool) (s : State) : Same s (ubcSet r b c s) := same_ubc s _

theorem ubcPut_same (id : RegId) (v : Word) (s : State) : Same s (ubcPut id v s) := by
  unfold ubcPut
  dsimp only
  split
  all_goals first
    | exact ubcSet_same _ _ _ s
    | exact Same.refl s
    | exact (ubcSet_same _ _ _ s).trans (same_ubc _ _)
    | exact ((ubcSet_same _ _ _ s).trans (same_ubc _ _)).trans (same_ubc _ _)

/-- A write that is checked first. -/
theorem lands_checked {c : Bool} {f : Fault} {s t : State} (h : Same s t) :
    (if c = true then (.stop f : Access Unit) else .ok () t).Lands (Same s) := by
  cases c
  · exact h
  · trivial

theorem ubcWrite_same (id : RegId) (v : Word) (s : State) : (ubcWrite id v s).Lands (Same s) :=
  lands_checked (ubcPut_same id v s)

theorem intcWrite_same (id : RegId) (v t : Half) (s : State) : Same s (intcWrite id v t s) := by
  unfold intcWrite
  dsimp only
  split <;> exact same_intc s _

theorem cmtWrite_same (id : RegId) (v t : Half) (s : State) : Same s (cmtWrite id v t s) := by
  unfold cmtWrite
  dsimp only
  split <;> exact same_cmt s _

theorem frqcrPut_same (v : Half) (s : State) : Same s (frqcrPut v s) := same_cpg s _

theorem frqcrWrite_same (v : Half) (s : State) : (frqcrWrite v s).Lands (Same s) := by
  unfold frqcrWrite
  dsimp only
  split
  · trivial
  · exact lands_checked (frqcrPut_same _ s)

theorem bscPut_same (id : RegId) (v : Word) (s : State) : Same s (bscPut id v s) := by
  unfold bscPut
  split <;> exact same_bsc s _

theorem bscWrite_same (id : RegId) (v : Word) (s : State) : (bscWrite id v s).Lands (Same s) :=
  lands_checked (bscPut_same id v s)

theorem bscehrWrite_same (v t : Half) (s : State) : (bscehrWrite v t s).Lands (Same s) := lands_checked (same_bsc s _)

theorem dtcerPut_same (id : RegId) (v t : Half) (s : State) : Same s (dtcerPut id v t s) := same_dtc s _

theorem dtcerWrite_same (id : RegId) (v t : Half) (s : State) : (dtcerWrite id v t s).Lands (Same s) := by
  unfold dtcerWrite
  extract_lets busy
  split
  · trivial
  · exact dtcerPut_same id v t s

theorem enterModuleStandby_same (p q : Power) (s : State) : Same s (enterModuleStandby p q s) := by
  unfold enterModuleStandby
  dsimp only
  split <;> split <;> split <;>
    first
      | exact Same.refl s
      | exact same_cmt s _
      | exact same_ubc s _
      | exact same_flash s _
      | exact (same_cmt s _).trans (same_ubc _ _)
      | exact (same_cmt s _).trans (same_flash _ _)
      | exact (same_ubc s _).trans (same_flash _ _)
      | exact ((same_cmt s _).trans (same_ubc _ _)).trans (same_flash _ _)

theorem forgetAud_same (s : State) : Same s (forgetAud s) :=
  ((((drawWord_same s).trans (drawWord_same _)).trans (drawWord_same _)).trans (drawWord_same _)).trans (same_aud _ _)

theorem emptyTrace_same (s : State) : Same s (emptyTrace s) := same_ubc s _

theorem audInit_same (s : State) : Same s (audInit s) := (emptyTrace_same s).trans (forgetAud_same _)

theorem powerPut_same (id : RegId) (v : Byte) (s : State) : Same s (powerPut id v s) := by
  have hs (q : Power) : Same s (enterModuleStandby s.power q { s with power := q }) :=
    (same_power s q).trans (enterModuleStandby_same _ _ _)
  unfold powerPut
  dsimp only
  split
  all_goals first
    | exact hs _
    | exact Same.refl s
    | exact (same_power s { s.power with ramcr := v &&& 0x10 }).trans (same_windows _ _)
    | (split
       · exact hs _
       · exact (hs _).trans (audInit_same _))

theorem powerWrite_same (id : RegId) (v : Byte) (s : State) : (powerWrite id v s).Lands (Same s) :=
  lands_checked (powerPut_same id v s)

theorem flashPut_same (id : RegId) (v : Byte) (s : State) : Same s (flashPut id v s) := by
  unfold flashPut
  split
  all_goals first
    | exact same_flash s _
    | exact Same.refl s
    | (constructor <;> (try constructor) <;> rfl)

theorem flashRegWrite_same (id : RegId) (v : Byte) (s : State) : (flashRegWrite id v s).Lands (Same s) := by
  unfold flashRegWrite
  split
  · exact Same.refl s
  · split
    · trivial
    · split
      · exact Same.refl s
      · exact flashPut_same id v s

theorem ramerWrite_same (v t : Half) (s : State) : Same s (ramerWrite v t s) := by
  constructor <;> (try constructor) <;> rfl

theorem audPut_same (id : RegId) (v : Word) (s : State) : Same s (audPut id v s) := by
  unfold audPut
  dsimp only
  split
  all_goals first
    | exact same_aud s _
    | exact Same.refl s
    | (split
       · exact (same_aud s _).trans (emptyTrace_same _)
       · exact same_aud s _)

theorem audRegWrite_same (id : RegId) (v : Word) (s : State) : (audRegWrite id v s).Lands (Same s) := by
  unfold audRegWrite
  split
  · exact Same.refl s
  · exact lands_checked (audPut_same id v s)

/-- Writing a register leaves the CPU and memory alone. -/
theorem regWrite_same (id : RegId) (v t : Word) (s : State) : (regWrite id v t s).Lands (Same s) := by
  unfold regWrite
  dsimp only
  split <;>
    first
      | exact intcWrite_same _ _ _ s
      | exact ubcWrite_same _ _ s
      | exact cmtWrite_same _ _ _ s
      | exact frqcrWrite_same _ s
      | exact same_cpg s _
      | exact Same.refl s
      | exact powerWrite_same _ _ s
      | exact bscWrite_same _ _ s
      | exact bscehrWrite_same _ _ s
      | exact dtcerWrite_same _ _ _ s
      | exact same_dtc s _
      | exact flashRegWrite_same _ _ s
      | exact ramerWrite_same _ _ s
      | exact audRegWrite_same _ _ s

theorem writeParts_same (l : List RegPart) (n : Nat) (v : Word) (s : State) : (writeParts l n v s).Lands (Same s) := by
  induction l generalizing n s with
  | nil => exact Same.refl s
  | cons p rest ih =>
    unfold writeParts
    exact Access.Lands.bind (regWrite_same _ _ _ s) (fun t h => h) (fun _ t h => (ih _ t).mono (fun u k => h.trans k))

theorem periphWrite_same (s : State) (z : Size) (a : Nat) (v : Word) : (periphWrite s z a v).Lands (Same s) := by
  unfold periphWrite
  split
  · split
    · exact same_wdt s _
    · exact Same.refl s
    · exact Same.refl s
  · split
    · trivial
    · exact writeParts_same _ _ _ s

/-- What a write over the buses can do to memory: nothing, or a store of the operand where it belongs, which is not a
peripheral register. -/
structure Writes (s : State) (z : Size) (a v : Word) (t : State) : Prop extends SameCpu s t where
  mem : t.mem = s.mem ∨
    (s.regionOf a.toNat ≠ .peripheral ∧ t.mem = Memory.putList s.mem (s.storeAddress a) (beBytes z v))

theorem Same.writes {s t : State} (h : Same s t) (z : Size) (a v : Word) : Writes s z a v t :=
  ⟨h.toSameCpu, .inl h.mem⟩

theorem SameCpu.regionOf {s t : State} (h : SameCpu s t) (a : Nat) : t.regionOf a = s.regionOf a := by
  simp [State.regionOf, h.part, h.mode]

theorem SameCpu.storeAddress {s t : State} (h : SameCpu s t) (a : Word) : t.storeAddress a = s.storeAddress a := by
  simp [State.storeAddress, h.regionOf]

theorem Writes.after {s t u : State} {z : Size} {a v : Word} (h : Writes s z a v t) (k : Same t u) :
    Writes s z a v u :=
  ⟨h.toSameCpu.trans k.toSameCpu, by rw [k.mem]; exact h.mem⟩

theorem Writes.before {s t u : State} {z : Size} {a v : Word} (h : Same s t) (k : Writes t z a v u) :
    Writes s z a v u :=
  ⟨h.toSameCpu.trans k.toSameCpu, by rw [← h.mem, ← h.toSameCpu.regionOf, ← h.toSameCpu.storeAddress]; exact k.mem⟩

theorem store_same (s : State) (z : Size) (a : Nat) (v : Word) : SameCpu s (s.store z a v) := by constructor <;> rfl

/-- A store where the operand belongs. -/
theorem store_writes {s u : State} (hu : Same s u) (z : Size) (a v : Word) (hp : s.regionOf a.toNat ≠ .peripheral) :
    Writes s z a v (u.store z (s.storeAddress a) v) :=
  ⟨hu.toSameCpu.trans (store_same u z _ v), .inr ⟨hp, by rw [← hu.mem]; rfl⟩⟩

/-- A write of a RAM cell, which is where the operand belongs. -/
theorem ramCellWrite_lands {s u : State} (hu : Same s u) (z : Size) (a v : Word)
    (hp : s.regionOf a.toNat ≠ .peripheral) : (ramCellWrite u z (s.storeAddress a) v).Lands (Writes s z a v) := by
  have he := hu.trans (ramEnabled_same u)
  unfold ramCellWrite
  split
  · trivial
  · show Writes s z a v _
    split
    · exact store_writes he z a v hp
    · exact he.writes z a v

theorem ramWrite_lands (s : State) (z : Size) (a v : Word) (hr : s.regionOf a.toNat = .ram) :
    (ramWrite s z a.toNat v).Lands (Writes s z a v) := by
  have ha : a.toNat = s.storeAddress a := by simp [State.storeAddress, hr]
  have hp : s.regionOf a.toNat ≠ .peripheral := by simp [hr]
  unfold ramWrite
  split
  · dsimp only
    split
    · trivial
    · rw [ha]
      exact ramCellWrite_lands (drawBit_same s) z a v hp
  · rw [ha]
    exact ramCellWrite_lands (Same.refl s) z a v hp

theorem romWrite_lands (s : State) (z : Size) (a v : Word) (hr : s.regionOf a.toNat = .rom) :
    (romWrite s z a.toNat v).Lands (Writes s z a v) := by
  have ha : overlayAlias a.toNat = s.storeAddress a := by simp [State.storeAddress, hr]
  have hp : s.regionOf a.toNat ≠ .peripheral := by simp [hr]
  unfold romWrite
  split
  · trivial
  · split
    · trivial
    · dsimp only
      split
      · rw [ha]
        exact ramCellWrite_lands (showsRam_same s _) z a v hp
      · trivial

theorem externalWrite_lands (k : Bool) (s : State) (z : Size) (a v : Word)
    (ha : extCell k a.toNat = s.storeAddress a) (hp : s.regionOf a.toNat ≠ .peripheral) :
    (externalWrite k s z a.toNat v).Lands (Writes s z a v) := by
  unfold externalWrite
  split
  · trivial
  · split
    · dsimp only
      rw [ha]
      exact Writes.after (store_writes (Same.refl s) z a v hp) (same_bsc _ _)
    · trivial

/-- What a write over the buses can do. -/
theorem busWrite_lands (s : State) (z : Size) (a v : Word) : (busWrite s z a v).Lands (Writes s z a v) := by
  unfold busWrite
  split
  · exact (Same.refl s).writes z a v
  · split
    · exact (Same.refl s).writes z a v
    · trivial
    · exact (periphWrite_same s z _ v).mono (fun t h => h.writes z a v)
    · next h => exact romWrite_lands _ _ _ _ h
    · next h => exact ramWrite_lands _ _ _ _ h
    · next h => exact externalWrite_lands _ _ _ _ _ (by simp [State.storeAddress, h]) (by simp [h])
    · next h => exact externalWrite_lands _ _ _ _ _ (by simp [State.storeAddress, h]) (by simp [h])

theorem openStale_same (b : State) (z : Size) (a : Word) (s : State) : Same s (openStale b z a s) := by
  unfold openStale
  split
  · exact same_windows s _
  · exact Same.refl s

/-- What a write of the CPU can do. -/
theorem cpuWrite_lands (s : State) (z : Size) (a v : Word) : (cpuWrite s z a v).Lands (Writes s z a v) := by
  have h := busWrite_lands s z a v
  unfold cpuWrite
  split
  · next t e => rw [e] at h; exact (Writes.after h (openStale_same _ _ _ _)).after (observeCpu_same _ _ _ _ _)
  · next t e => rw [e] at h; exact Writes.after h (observeCpu_same _ _ _ _ _)
  · trivial

theorem cpuWrite_ok {s t : State} {z : Size} {a v : Word} {x : Unit} (h : cpuWrite s z a v = .ok x t) :
    Writes s z a v t := by
  have := cpuWrite_lands s z a v
  rw [h] at this
  exact this

/-- What a write of the DTC can do. -/
theorem dtcWrite_lands (s : State) (z : Size) (a v : Word) : (dtcWrite s z a v).Lands (Writes s z a v) := by
  refine Access.Lands.bind (busWrite_lands s z a v) (fun t h => h) (fun _ t h => ?_)
  exact (Writes.after h (openStale_same _ _ _ _)).after (ubcObserve_same _ _)

/-- A write keeps the canonical form of the memory. -/
theorem Writes.wf {s t : State} {z : Size} {a v : Word} (h : Writes s z a v t) (w : Memory.wf s.mem = true) :
    Memory.wf t.mem = true := by
  rcases h.mem with e | ⟨-, e⟩
  · rw [e]; exact w
  · rw [e]; exact Memory.wf_putList _ _ _ w

/-- A write leaves every byte outside the operand. -/
theorem Writes.outside {s t : State} {z : Size} {a v : Word} (h : Writes s z a v t) :
    s.keepsMemoryOutside t z (s.storeAddress a) := by
  intro b hb
  unfold State.byteAt
  rw [h.part, h.ramEpoch]
  rcases h.mem with e | ⟨-, e⟩
  · rw [e]
  · rw [e, Memory.find_putList_out _ _ _ _ (by simpa using hb)]

/-- A write of a peripheral register leaves memory alone. -/
theorem Writes.peripheral {s t : State} {z : Size} {a v : Word} (h : Writes s z a v t)
    (hp : s.regionOf a.toNat = .peripheral) : s.keepsMemory t := by
  intro b
  unfold State.byteAt
  rw [h.part, h.ramEpoch]
  rcases h.mem with e | ⟨e, -⟩
  · rw [e]
  · exact absurd hp e

/-! ## Plain memory -/

/-- What makes an operand plain stays the same. -/
structure SamePlain (s t : State) : Prop where
  part : t.part = s.part
  mode : t.mode = s.mode
  ramcr : t.windows.ramcr = s.windows.ramcr
  fmats : t.windows.fmats = s.windows.fmats
  ramer : t.windows.ramer = s.windows.ramer
  power : t.power = s.power
  flash : t.flash = s.flash

theorem SamePlain.trans {s t u : State} (a : SamePlain s t) (b : SamePlain t u) : SamePlain s u :=
  ⟨b.part.trans a.part, b.mode.trans a.mode, b.ramcr.trans a.ramcr, b.fmats.trans a.fmats, b.ramer.trans a.ramer,
   b.power.trans a.power, b.flash.trans a.flash⟩

theorem SamePlain.plain {s t : State} (h : SamePlain s t) (z : Size) (a : Word) : t.plain z a = s.plain z a := by
  unfold State.plain State.regionOf
  rw [h.part, h.mode, h.ramcr, h.fmats, h.ramer, h.power, h.flash]

theorem SamePlain.plainRam {s t : State} (h : SamePlain s t) (z : Size) (a : Word) :
    t.plainRam z a = s.plainRam z a := by
  unfold State.plainRam State.regionOf
  rw [h.plain, h.part, h.mode]

theorem OnlyUbc.samePlain {s t : State} (h : OnlyUbc s t) : SamePlain s t := by
  obtain ⟨u, d, rfl⟩ := h
  constructor <;> rfl

theorem openStale_samePlain (b : State) (z : Size) (a : Word) (s : State) : SamePlain s (openStale b z a s) := by
  unfold openStale
  split <;> constructor <;> rfl

/-- What holds of a plain operand, and stays through everything that leaves its clocks and windows. -/
theorem State.plain_iff {s : State} {z : Size} {a : Word} (h : s.plain z a = true) :
    misaligned z a = false ∧ s.windows.ramcr = 0 ∧ s.windows.fmats = 0 ∧ s.windows.ramer = 0 ∧
      ramsOf s.flash.ramer = false ∧
      ((s.regionOf a.toNat = .ram ∧ bitOf s.power.stbcr2 7 = false ∧ bitOf s.power.ramcr 4 = true) ∨
        (s.regionOf a.toNat = .rom ∧ bitOf s.power.stbcr2 6 = false ∧ s.flash.fmats ≠ 0xAA)) := by
  simpa [State.plain, and_assoc] using h

/-- A plain operand reads as its stored bytes, with no effect but what the UBC sees. -/
theorem busRead_plain {s : State} {z : Size} {a : Word} (m : Master) (f : Bool) (h : s.plain z a = true) :
    busRead m f s z a = .ok (s.stored z a.toNat) s := by
  obtain ⟨h1, h2, h3, h4, h5, h6 | h6⟩ := State.plain_iff h
  · simp [busRead, h1, h6.1, ramRead, ramCellRead, ramEnabled, h6.2.1, h2, h6.2.2, h4]
  · have hf : ¬ s.flash.fmats = 170#8 := h6.2.2
    simp [busRead, h1, h6.1, romRead, h6.2.1, emulationForbidden, h5, showsRam, State.ramerUncertain, h4,
      overlays, flashRead, h3, hf]

/-- A plain operand is no register of the UBC. -/
theorem ubcReadBack_plain {s : State} {z : Size} {a : Word} (h : s.plain z a = true) (t : State) :
    ubcReadBack a t = t := by
  have hu : ubcAddress a.toNat = false := by
    by_contra hc
    simp only [ubcAddress, Bool.not_eq_false, Bool.and_eq_true, decide_eq_true_eq] at hc
    have hr : s.regionOf a.toNat = .peripheral := by
      unfold State.regionOf region
      rw [if_pos (by omega)]
    obtain ⟨-, -, -, -, -, h6 | h6⟩ := State.plain_iff h <;> simp [hr] at h6
  simp [ubcReadBack, hu]

theorem cpuRead_plain {s : State} {z : Size} {a : Word} (h : s.plain z a = true) :
    cpuRead s z a = .ok (s.stored z a.toNat) (observeCpu false z a (s.stored z a.toNat) s) := by
  simp [cpuRead, busRead_plain .cpu false h, ubcReadBack_plain h]

/-- A plain operand in RAM takes a write. -/
theorem cpuWrite_plain {s : State} {z : Size} {a : Word} (v : Word) (h : s.plainRam z a = true) :
    cpuWrite s z a v =
      .ok () (observeCpu true z a v (openStale s z a (s.store z a.toNat v))) := by
  simp only [State.plainRam, Bool.and_eq_true, decide_eq_true_eq] at h
  obtain ⟨h1, h2, h3, h4, h5, h6 | h6⟩ := State.plain_iff h.1
  · simp [cpuWrite, busWrite, h1, h.2, ramWrite, ramCellWrite, ramEnabled, h6.2.1, h2, h6.2.2, h4]
  · exact absurd h6.1 (by simp [h.2])

/-- A bit of the low part of a word. -/
theorem lowPart_bit (z : Size) (v : Word) (k : Nat) :
    (lowPart z v).getLsbD k = (decide (k < 8 * z.bytes) && v.getLsbD k) := by
  have : z.bytes ≤ 4 := by cases z <;> decide
  rw [lowPart, BitVec.getLsbD_and, BitVec.getLsbD_ofNat, Nat.testBit_two_pow_sub_one]
  by_cases h : k < 8 * z.bytes
  · have : k < 32 := by omega
    simp [h, this]
  · simp [h]

/-- The value of the bytes of an operand is its low part. -/
theorem beValue_beBytes (z : Size) (v : Word) (f : Nat → Byte)
    (h : ∀ (i : Nat) (hi : i < (beBytes z v).length), f i = (beBytes z v)[i]) : beValue z f = lowPart z v := by
  apply BitVec.eq_of_getLsbD_eq
  intro k hk
  rw [lowPart_bit]
  cases z with
  | byte =>
    have h0 := h 0 (by simp [beBytes])
    simp only [beBytes, List.getElem_cons_zero] at h0
    simp [beValue, h0, Size.bytes, hk]
  | word =>
    have h0 := h 0 (by simp [beBytes])
    have h1 := h 1 (by simp [beBytes])
    simp only [beBytes, List.getElem_cons_zero, List.getElem_cons_succ] at h0 h1
    simp only [beValue, h0, h1, Size.bytes, BitVec.getLsbD_setWidth, hk, decide_true, Bool.true_and,
      BitVec.getLsbD_append, BitVec.getLsbD_extractLsb']
    by_cases a : k < 8
    · have : k < 8 * 2 := by omega
      simp [a, this]
    · have e : 8 + (k - 8) = k := by omega
      by_cases b : k < 8 * 2
      · have : k - 8 < 8 := by omega
        simp [a, b, e, this]
      · have : ¬ k - 8 < 8 := by omega
        simp [a, b, this]
  | long =>
    have h0 := h 0 (by simp [beBytes])
    have h1 := h 1 (by simp [beBytes])
    have h2 := h 2 (by simp [beBytes])
    have h3 := h 3 (by simp [beBytes])
    simp only [beBytes, List.getElem_cons_zero, List.getElem_cons_succ] at h0 h1 h2 h3
    have hb : k < 8 * 4 := by omega
    simp only [beValue, h0, h1, h2, h3, Size.bytes, BitVec.getLsbD_append, BitVec.getLsbD_extractLsb', hb, decide_true,
      Bool.true_and]
    by_cases a : k < 8
    · simp [a]
    · have e1 : 8 + (k - 8) = k := by omega
      by_cases b : k - 8 < 8
      · simp [a, b, e1]
      · have e2 : 16 + (k - 8 - 8) = k := by omega
        by_cases c : k - 8 - 8 < 8
        · simp [a, b, c, e2]
        · have e3 : 24 + (k - 8 - 8 - 8) = k := by omega
          have d : k - 8 - 8 - 8 < 8 := by omega
          simp [a, b, c, d, e3]

/-- Reading a plain operand, and writing one in RAM, keeps every operand plain. -/
theorem cpuRead_samePlain {s u : State} {z : Size} {a v : Word} (h : s.plain z a = true)
    (hr : cpuRead s z a = .ok v u) : v = s.stored z a.toNat ∧ OnlyUbc s u := by
  rw [cpuRead_plain h] at hr
  cases hr
  exact ⟨rfl, observeCpu_only _ _ _ _ _⟩

theorem cpuWrite_samePlain {s u : State} {z : Size} {a v : Word} (h : s.plainRam z a = true)
    (hw : cpuWrite s z a v = .ok () u) : SamePlain s u := by
  rw [cpuWrite_plain v h] at hw
  cases hw
  have h1 : SamePlain s (s.store z a.toNat v) := by constructor <;> rfl
  exact (h1.trans (openStale_samePlain _ _ _ _)).trans (observeCpu_only _ _ _ _ _).samePlain

/-- What decides whether something comes between the CPU's accesses stays the same. -/
structure SameAlone (s t : State) : Prop where
  inner : t.inner = s.inner
  cmt : t.cmt = s.cmt
  dtc : t.dtc = s.dtc
  power : t.power = s.power

theorem SameAlone.alone {s t : State} (h : SameAlone s t) : t.alone = s.alone := by
  unfold State.alone State.dtcHold
  rw [h.inner, h.cmt, h.dtc, h.power]

theorem SameAlone.trans {s t u : State} (a : SameAlone s t) (b : SameAlone t u) : SameAlone s u :=
  ⟨b.inner.trans a.inner, b.cmt.trans a.cmt, b.dtc.trans a.dtc, b.power.trans a.power⟩

theorem OnlyUbc.sameAlone {s t : State} (h : OnlyUbc s t) : SameAlone s t := by
  obtain ⟨u, d, rfl⟩ := h
  constructor <;> rfl

/-- A write of a plain operand lets nothing new come between. -/
theorem cpuWrite_sameAlone {s u : State} {z : Size} {a v : Word} (h : s.plainRam z a = true)
    (hw : cpuWrite s z a v = .ok () u) : SameAlone s u := by
  rw [cpuWrite_plain v h] at hw
  cases hw
  have h1 : SameAlone s (openStale s z a (s.store z a.toNat v)) := by
    unfold openStale
    split <;> constructor <;> rfl
  exact h1.trans (observeCpu_only _ _ _ _ _).sameAlone

/-- The operand that was stored reads back as its low bytes. -/
theorem stored_store (s : State) (z : Size) (a : Nat) (v : Word) : (s.store z a v).stored z a = lowPart z v :=
  beValue_beBytes z v _ (fun i hi => s.store_byteAt_in z a v i hi)

/-- An operand whose bytes all read as before. -/
theorem stored_congr {s t : State} {z : Size} {a : Nat} (h : ∀ b, a ≤ b → b < a + z.bytes → t.byteAt b = s.byteAt b) :
    t.stored z a = s.stored z a := by
  unfold State.stored
  cases z <;> simp only [beValue, Nat.add_zero] <;>
    (repeat rw [h _ (by omega) (by simp only [Size.bytes]; omega)])

/-- A plain operand in RAM reads back, after the CPU wrote it, as what was written. -/
theorem cpuWrite_stored {s u : State} {z : Size} {a v : Word} (h : s.plainRam z a = true)
    (hw : cpuWrite s z a v = .ok () u) : u.stored z a.toNat = lowPart z v := by
  rw [cpuWrite_plain v h] at hw
  cases hw
  rw [← stored_store s z a.toNat v]
  exact stored_congr fun b _ _ => ((openStale_same _ _ _ _).trans (observeCpu_same _ _ _ _ _)).byteAt b

/-- The low part of a longword is the longword. -/
@[simp] theorem lowPart_long (v : Word) : lowPart .long v = v := by
  apply BitVec.eq_of_getLsbD_eq
  intro k hk
  have : k < 8 * Size.bytes .long := hk
  rw [lowPart_bit]
  simp [this]

end Sys2Proof.Machine
end

