-- ==== Sys2Proof/Laws/Flags.lean ====
section
/-! SUPPORT. SR as a whole: its implemented bits (rules R24, R25), the interrupt mask, and the updates that keep the
reserved bits 0. -/

namespace Sys2Proof.Machine

/-- The implemented bits of SR, by place. -/
theorem implemented_bit (k : Nat) (h : k < 32) :
    (0x3F3 : Word).getLsbD k = decide (k < 10 ∧ k ≠ 2 ∧ k ≠ 3) ∧
      (0xFFFFFC0C : Word).getLsbD k = decide (¬ (k < 10 ∧ k ≠ 2 ∧ k ≠ 3)) := by
  revert h
  revert k
  decide

/-- The reserved bits are 0 exactly when each of them is. -/
theorem srOk_iff (v : Word) : v &&& 0xFFFFFC0C = 0 ↔ ∀ k, k < 32 → ¬ (k < 10 ∧ k ≠ 2 ∧ k ≠ 3) → bitOf v k = false := by
  constructor
  · intro h k hk hr
    have e := congrArg (fun x => x.getLsbD k) h
    simp only [BitVec.getLsbD_and, (implemented_bit k hk).2, hr, not_false_eq_true, decide_true, Bool.and_true] at e
    exact e.trans BitVec.getLsbD_zero
  · intro h
    apply BitVec.eq_of_getLsbD_eq
    intro k hk
    rw [BitVec.getLsbD_and, (implemented_bit k hk).2]
    refine Eq.trans ?_ BitVec.getLsbD_zero.symm
    by_cases hr : k < 10 ∧ k ≠ 2 ∧ k ≠ 3
    · simp [hr]
    · have e := h k hk hr
      unfold bitOf at e
      simp [e]

/-- Writing SR back changes nothing when its reserved bits are 0. -/
theorem writeSr_of_srOk {v : Word} (h : v &&& 0xFFFFFC0C = 0) : v &&& 0x3F3 = v := by
  apply BitVec.eq_of_getLsbD_eq
  intro k hk
  rw [BitVec.getLsbD_and, (implemented_bit k hk).1]
  by_cases hr : k < 10 ∧ k ≠ 2 ∧ k ≠ 3
  · simp [hr]
  · have e := (srOk_iff v).1 h k hk hr
    unfold bitOf at e
    simp [e]

/-- What is written to SR as a whole has its reserved bits 0. -/
theorem srOk_write (v : Word) : (v &&& 0x3F3) &&& 0xFFFFFC0C = 0 := by
  rw [BitVec.and_assoc]
  have : (0x3F3 : Word) &&& 0xFFFFFC0C = 0 := by decide
  rw [this]
  exact BitVec.and_zero

/-- Replacing an implemented bit keeps the reserved bits 0. -/
theorem srOk_withBit {v : Word} (h : v &&& 0xFFFFFC0C = 0) (k : Nat) (b : Bool) (hk : k < 10 ∧ k ≠ 2 ∧ k ≠ 3) :
    withBit v k b &&& 0xFFFFFC0C = 0 := by
  rw [srOk_iff] at *
  intro j hj hr
  rw [bitOf_withBit _ _ _ _ (by omega)]
  split
  · next e => exact absurd (e ▸ hk) hr
  · exact h j hj hr

/-- A bit of SR after the mask was replaced. -/
theorem bitOf_withMask (v : Word) (l k : Nat) :
    bitOf (withMask v l) k = if 4 ≤ k ∧ k < 8 then Nat.testBit (l % 16) (k - 4) else bitOf v k := by
  have hm : ∀ k, k < 32 → (0xFFFFFF0F : Word).getLsbD k = decide (¬ (4 ≤ k ∧ k < 8)) := by decide
  by_cases hk : k < 32
  · unfold bitOf withMask
    rw [BitVec.getLsbD_or, BitVec.getLsbD_and, hm k hk, BitVec.getLsbD_shiftLeft, BitVec.getLsbD_ofNat]
    by_cases h4 : k < 4
    · have : ¬ (4 ≤ k ∧ k < 8) := by omega
      simp [h4, this]
    · by_cases h8 : k < 8
      · have h1 : 4 ≤ k ∧ k < 8 := by omega
        have h2 : k - 4 < 32 := by omega
        simp [h1, h4, hk, h2]
      · have h1 : ¬ (4 ≤ k ∧ k < 8) := by omega
        have h3 : Nat.testBit (l % 16) (k - 4) = false := by
          apply Nat.testBit_lt_two_pow
          calc l % 16 < 2 ^ 4 := Nat.mod_lt _ (by decide)
            _ ≤ 2 ^ (k - 4) := Nat.pow_le_pow_right (by decide) (by omega)
        rw [if_neg h1, h3]
        simp [h1]
  · have h1 : ¬ (4 ≤ k ∧ k < 8) := by omega
    rw [if_neg h1]
    unfold bitOf
    rw [BitVec.getLsbD_of_ge _ _ (by omega), BitVec.getLsbD_of_ge _ _ (by omega)]

/-- Replacing the mask keeps the reserved bits 0. -/
theorem srOk_withMask {v : Word} (h : v &&& 0xFFFFFC0C = 0) (l : Nat) : withMask v l &&& 0xFFFFFC0C = 0 := by
  rw [srOk_iff] at *
  intro k hk hr
  rw [bitOf_withMask, if_neg (by omega)]
  exact h k hk hr

/-- The mask after it was replaced. -/
theorem mask_withMask (s : State) (l : Nat) : ({ s with sr := withMask s.sr l } : State).mask = l % 16 := by
  have : ((withMask s.sr l).extractLsb' 4 4) = BitVec.ofNat 4 l := by
    apply BitVec.eq_of_getLsbD_eq
    intro i hi
    have e := bitOf_withMask s.sr l (4 + i)
    rw [if_pos (by omega)] at e
    unfold bitOf at e
    rw [BitVec.getLsbD_extractLsb', e, BitVec.getLsbD_ofNat]
    have : 4 + i - 4 = i := by omega
    rw [this, show (16 : Nat) = 2 ^ 4 from rfl, Nat.testBit_mod_two_pow]
    simp [hi]
  show ((withMask s.sr l).extractLsb' 4 4).toNat = l % 16
  rw [this, BitVec.toNat_ofNat]

end Sys2Proof.Machine
end

