-- ==== Sys2Proof/Laws/Agents.lean ====
section
/-! SUPPORT. What the other agents can change: no register of the CPU unless a reset takes the CPU out of program
execution. One lemma per agent, and one for what lies between two accesses of the CPU. -/

namespace Sys2Proof.Machine

/-- The CPU's registers and its processing state, the part, the mode and the agenda are equal, and the memories keep their
canonical form. -/
structure Core (s t : State) : Prop where
  regs : t.regs = s.regs
  sr : t.sr = s.sr
  gbr : t.gbr = s.gbr
  vbr : t.vbr = s.vbr
  mach : t.mach = s.mach
  macl : t.macl = s.macl
  pr : t.pr = s.pr
  pc : t.pc = s.pc
  slot : t.slot = s.slot
  irqBlock : t.irqBlock = s.irqBlock
  proc : t.proc = s.proc
  part : t.part = s.part
  mode : t.mode = s.mode
  ramEpoch : t.ramEpoch = s.ramEpoch
  agenda : t.agenda = s.agenda
  turn : t.turn = s.turn
  wf : Memory.wf s.mem = true → Memory.wf t.mem = true
  bootWf : Memory.wf s.bootMat = true → Memory.wf t.bootMat = true

theorem Core.refl (s : State) : Core s s := by constructor <;> first | rfl | exact id

theorem Core.trans {s t u : State} (a : Core s t) (b : Core t u) : Core s u :=
  ⟨b.regs.trans a.regs, b.sr.trans a.sr, b.gbr.trans a.gbr, b.vbr.trans a.vbr, b.mach.trans a.mach,
   b.macl.trans a.macl, b.pr.trans a.pr, b.pc.trans a.pc, b.slot.trans a.slot, b.irqBlock.trans a.irqBlock,
   b.proc.trans a.proc, b.part.trans a.part, b.mode.trans a.mode, b.ramEpoch.trans a.ramEpoch,
   b.agenda.trans a.agenda, b.turn.trans a.turn, fun h => b.wf (a.wf h), fun h => b.bootWf (a.bootWf h)⟩

theorem SameCpu.core {s t : State} (h : SameCpu s t) (w : Memory.wf s.mem = true → Memory.wf t.mem = true) : Core s t :=
  ⟨h.regs, h.sr, h.gbr, h.vbr, h.mach, h.macl, h.pr, h.pc, h.slot, h.irqBlock, h.proc, h.part, h.mode, h.ramEpoch,
   h.agenda, h.turn, w, fun k => by rw [h.bootMat]; exact k⟩

theorem Same.core {s t : State} (h : Same s t) : Core s t := h.toSameCpu.core (fun w => by rw [h.mem]; exact w)

theorem Writes.core {s t : State} {z : Size} {a v : Word} (h : Writes s z a v t) : Core s t := h.toSameCpu.core h.wf

theorem Core.reg {s t : State} (h : Core s t) (r : Reg) : t.reg r = s.reg r := by simp [State.reg, h.regs]

theorem Core.regionOf {s t : State} (h : Core s t) (a : Nat) : t.regionOf a = s.regionOf a := by
  simp [State.regionOf, h.part, h.mode]

theorem Core.storeAddress {s t : State} (h : Core s t) (a : Word) : t.storeAddress a = s.storeAddress a := by
  simp [State.storeAddress, h.regionOf]

theorem Core.special {s t : State} (h : Core s t) (x : Special) : t.special x = s.special x := by
  cases x <;> simp [State.special, h.gbr, h.vbr, h.mach, h.macl, h.pr]

/-- An answer without a fault has the property. -/
def Answers (x : Except Fault State) (P : State → Prop) : Prop := ∀ t, x = .ok t → P t

theorem Answers.ok {s : State} {P : State → Prop} (h : P s) : Answers (.ok s) P := fun _ e => by cases e; exact h

theorem Answers.error {f : Fault} {P : State → Prop} : Answers (.error f) P := fun _ e => by cases e

/-- No count clock coinciding with the next access changes nothing else. -/
theorem clearRaces_same (s : State) : Same s (clearRaces s) := by
  unfold clearRaces
  split
  · exact Same.refl s
  · exact same_cmt s _

theorem refreshQueue_same (s : State) : Same s (refreshQueue s) := by
  unfold refreshQueue
  split
  · exact same_dtc s _
  · exact same_dtc s _

/-! ## The DTC -/

theorem setActivity_same (s : State) (a : DtcActivity) : Same s (s.setActivity a) := same_dtc s _

theorem stopActivation_same (s : State) : Same s (stopActivation s) := same_dtc s _

theorem clearDtce_same (v : Nat) (s : State) : Same s (clearDtce v s) := by
  unfold clearDtce
  split
  · exact same_dtc s _
  · exact Same.refl s

/-- Withdrawing a request changes a module's flag or a request line. -/
theorem clearSource_core (v : Nat) (b : Bool) (s : State) : Core s (clearSource v b s) := by
  unfold clearSource
  split
  · exact (same_intc s _).core
  · split
    · exact (same_cmt s _).core
    · split
      · exact (same_cmt s _).core
      · split
        · split
          · exact Core.refl s
          · constructor <;> first | rfl | exact id
        · exact Core.refl s

theorem endOfActivation_core (v : Nat) (c b : Bool) (s : State) : Core s (endOfActivation v c b s) := by
  unfold endOfActivation
  split
  · exact (clearDtce_same v s).core
  · exact clearSource_core v b s

theorem beginTransfer_core (h : Hold) (a : DtcActivity) (s : State) : Answers (beginTransfer h a s) (Core s) := by
  unfold beginTransfer
  split
  · exact Answers.error
  · exact Answers.ok (setActivity_same s _).core

theorem finishBlock_core (a : DtcActivity) (s : State) : Answers (finishBlock a s) (Core s) := by
  unfold finishBlock
  split
  · exact Answers.ok (stopActivation_same s).core
  · split
    · split
      · exact Answers.error
      · exact Answers.ok (setActivity_same s _).core
    · exact Answers.ok ((endOfActivation_core _ _ _ s).trans (same_dtc _ _).core)

theorem dtcAfter_core {α : Type} {s : State} {x : Access α} {k : α → State → Except Fault State}
    (hx : x.Lands (Core s)) (hk : ∀ v t, Core s t → Answers (k v t) (Core s)) : Answers (dtcAfter x k) (Core s) := by
  unfold dtcAfter
  cases x with
  | ok v t => exact hk v t hx
  | addressError t => exact Answers.ok (Core.trans hx (same_dtc t _).core)
  | stop f => exact Answers.error

theorem dtcRead_core (s : State) (z : Size) (a : Word) : (dtcRead s z a).Lands (Core s) :=
  (dtcRead_same s z a).mono (fun _ h => h.core)

theorem dtcWrite_core (s : State) (z : Size) (a v : Word) : (dtcWrite s z a v).Lands (Core s) :=
  (dtcWrite_lands s z a v).mono (fun _ h => h.core)

theorem Answers.after {s t : State} {x : Except Fault State} (h : Core s t) (k : Answers x (Core t)) :
    Answers x (Core s) := fun u e => h.trans (k u e)

/-- An access of the DTC leaves the CPU. -/
theorem dtcAccess_core (y : Bool) (a : DtcActivity) (s : State) : Answers (dtcAccess y a s) (Core s) := by
  have set {t : State} (h : Core s t) (b : DtcActivity) : Answers (.ok (t.setActivity b)) (Core s) :=
    Answers.ok (h.trans (setActivity_same t b).core)
  unfold dtcAccess
  dsimp only
  split
  · exact dtcAfter_core (dtcRead_core _ _ _) (fun v t h => set h _)
  · exact set (Core.refl s) _
  · split
    · exact Answers.error
    · refine dtcAfter_core (dtcRead_core _ _ _) (fun v t h => ?_)
      split
      · exact set h _
      · exact (beginTransfer_core _ _ t).after h
  · split
    · exact Answers.error
    · exact dtcAfter_core (dtcRead_core _ _ _) (fun v t h => set h _)
  · refine dtcAfter_core (dtcWrite_core _ _ _ _) (fun v t h => ?_)
    split
    · exact set h _
    · exact set h _
  · exact dtcAfter_core (dtcWrite_core _ _ _ _) (fun v t h => set h _)
  · exact dtcAfter_core (dtcWrite_core _ _ _ _) (fun v t h => set h _)
  · exact dtcAfter_core (dtcWrite_core _ _ _ _) (fun v t h => (finishBlock_core a t).after h)

theorem stopAtRelease_same (s : State) : Same s (stopAtRelease s) := by
  unfold stopAtRelease
  split
  · split
    · exact stopActivation_same s
    · exact Same.refl s
  · exact Same.refl s

theorem startActivation_core (v : Nat) (s : State) : Answers (startActivation v s) (Core s) := by
  unfold startActivation
  dsimp only
  split
  · exact beginTransfer_core _ _ s
  · exact Answers.ok (setActivity_same s _).core

/-- A step of the DTC leaves the CPU. -/
theorem dtcAdvance_core (y : Bool) (s : State) : Answers (dtcAdvance y s) (Core s) := by
  unfold dtcAdvance
  split
  · exact Answers.ok (Core.refl s)
  · split
    · next a _ =>
      cases e : dtcAccess y a s with
      | error f => exact Answers.error
      | ok t =>
        have h : Core s (refreshQueue (stopAtRelease t)) :=
          (dtcAccess_core y a s t e).trans ((stopAtRelease_same t).trans (refreshQueue_same _)).core
        dsimp only
        split
        · split
          · exact (startActivation_core _ _).after h
          · exact Answers.ok h
        · exact Answers.ok h
    · split
      · exact Answers.ok (Core.refl s)
      · split
        · exact startActivation_core _ s
        · exact Answers.ok (Core.refl s)

/-! ## What a power cut and a reset leave of SR -/

/-- A power cut leaves SR a free value but for its reserved bits. -/
theorem forgetCpu_sr (s : State) : ∃ n, (forgetCpu s).sr = Config.freeWord n &&& 0x3F3 :=
  ⟨(drawRegs 16 0 s).draws, rfl⟩

theorem powerCut_sr (s : State) : ∃ n, (powerCut s).sr = Config.freeWord n &&& 0x3F3 := by
  obtain ⟨n, h⟩ := forgetCpu_sr (forgetRam s)
  have e := (forgetAud_same (initialiseAll (forgetCpu (forgetRam s)))).sr
  unfold initialiseAll at e
  exact ⟨n, e.trans h⟩

theorem powerCut_srOk (s : State) : (powerCut s).srOk = true := by
  obtain ⟨n, h⟩ := powerCut_sr s
  simp only [State.srOk, h, srOk_write, decide_true]

/-- A reset of the CPU leaves the mask at 15, VBR at 0, and SR's reserved bits at 0. -/
theorem resetCpu_reset (s : State) : (resetCpu s).mask = 15 ∧ (resetCpu s).vbr = 0 ∧ (resetCpu s).srOk = true := by
  refine ⟨mask_withMask (forgetCpu s) 15, rfl, decide_eq_true (srOk_withMask ?_ 15)⟩
  obtain ⟨n, h⟩ := forgetCpu_sr s
  rw [h]
  exact srOk_write _

/-- What a reset leaves of SR and VBR holds of every state with the same two registers. -/
theorem reset_of_same {s t : State} (sr : t.sr = (resetCpu s).sr) (vbr : t.vbr = (resetCpu s).vbr) :
    t.mask = 15 ∧ t.vbr = 0 ∧ t.srOk = true := by
  obtain ⟨hm, hv, ho⟩ := resetCpu_reset s
  unfold State.mask State.srOk at *
  rw [sr, vbr]
  exact ⟨hm, hv, ho⟩

theorem powerOnInit_reset (s : State) :
    (powerOnInit s).mask = 15 ∧ (powerOnInit s).vbr = 0 ∧ (powerOnInit s).srOk = true := by
  have h := forgetAud_same (initialiseAll (resetCpu (cutExternalWrite s)))
  unfold powerOnInit
  generalize forgetAud (initialiseAll (resetCpu (cutExternalWrite s))) = t at h
  unfold initialiseAll at h
  exact reset_of_same (s := cutExternalWrite s) h.sr h.vbr

theorem manualInit_reset (s : State) :
    (manualInit s).mask = 15 ∧ (manualInit s).vbr = 0 ∧ (manualInit s).srOk = true := by
  have h := forgetAud_same (resetCpu s)
  unfold manualInit
  generalize forgetAud (resetCpu s) = t at h
  exact reset_of_same h.sr h.vbr

theorem drawRegs_keeps (n k : Nat) (s : State) :
    (drawRegs n k s).power = s.power ∧ (drawRegs n k s).mem = s.mem ∧ (drawRegs n k s).part = s.part ∧
      (drawRegs n k s).ramEpoch = s.ramEpoch := by
  induction n generalizing k s with
  | zero => exact ⟨rfl, rfl, rfl, rfl⟩
  | succ n ih => exact ih _ _

/-- A manual reset keeps the power-down registers and memory (rule R663). -/
theorem manualReset_keeps (s : State) :
    (manualReset s).power = s.power ∧ (manualReset s).mem = s.mem ∧ (manualReset s).part = s.part ∧
      (manualReset s).ramEpoch = s.ramEpoch := by
  simpa [manualReset, manualInit, forgetAud, resetCpu, forgetCpu, State.drawWord] using drawRegs_keeps 16 0 s

/-- MRES low in software or deep software standby leaves the mode as it was, a free choice drawn, or begins a manual reset of
the state whose clocks are back (rules R36, R413, R623, R625; log entry 45). -/
theorem mresInStandby_cases (s : State) :
    mresInStandby s = s.drawBit.2 ∨ mresInStandby s = manualReset (clocksBack s.drawBit.2) := by
  unfold mresInStandby
  dsimp only
  split
  · exact .inr rfl
  · exact .inl rfl

/-! ## The other agents -/

theorem audAfter_core {α : Type} {s : State} {x : Access α} (h : x.Lands (Core s)) : Answers (audAfter x) (Core s) := by
  unfold audAfter
  cases x with
  | ok v t => exact Answers.ok h
  | addressError t => exact Answers.ok h
  | stop f => exact Answers.error

theorem audRead_core (z : Size) (a : Word) (s : State) : Answers (audRead z a s) (Core s) := by
  unfold audRead
  split
  · exact audAfter_core ((busRead_same .aud false s z a).mono (fun _ h => h.core))
  · exact Answers.ok (Core.refl s)

theorem audWrite_core (z : Size) (a v : Word) (s : State) : Answers (audWrite z a v s) (Core s) := by
  unfold audWrite
  split
  · refine audAfter_core (Access.Lands.bind (busWrite_lands s z a v) (fun t h => h.core) (fun _ t h => ?_))
    exact (h.after (openStale_same _ _ _ _)).core
  · exact Answers.ok (Core.refl s)

theorem masterAccess_core (k : Bool) (a : BitVec 20) (v : Option Byte) (s : State) : Core s (masterAccess k a v s) := by
  unfold masterAccess
  split
  · exact Core.refl s
  · split
    · exact ((store_same s _ _ _).core (s.store_wf _ _ _)).trans (same_windows _ _).core
    · exact Core.refl s

theorem dtcEvent_core (y : Bool) (s : State) : Answers (dtcEvent y s) (Core s) := by
  unfold dtcEvent
  split
  · exact dtcAdvance_core y s
  · exact Answers.ok (Core.refl s)

theorem lineEvent_core (l : Line) (on : Bool) (s : State) : Core s (lineEvent l on s) := by
  unfold lineEvent
  dsimp only
  split
  · split
    · constructor <;> first | rfl | exact id
    · exact Core.refl s
  · constructor <;> first | rfl | exact id

theorem clockStopEvent_core (s : State) : Core s (clockStopEvent s) := by
  unfold clockStopEvent
  split
  · exact (same_cpg s _).core
  · exact Core.refl s

/-- A level on a pin leaves the rest. -/
theorem pins_core (s : State) (p : Pins) : Core s { s with pins := p } := by constructor <;> first | rfl | exact id

theorem cmtPtick_same (m : Bool) (s : State) : Same s (cmtPtick m s) := by
  unfold cmtPtick
  dsimp only
  split
  · exact clearRaces_same s
  · exact (clearRaces_same s).trans (same_cmt _ _)

theorem pins_run_core {s : State} (h : s.proc = .run) (p : Pins) : Core s { s with pins := p, proc := .run } := by
  constructor <;> first | rfl | exact id | exact h.symm

/-- A period of the peripheral clock, of a running chip that it does not reset. -/
theorem runPtick_core {m : Bool} {s : State} (h : (runPtick m s).proc = .run) : Core s (runPtick m s) := by
  unfold runPtick at h ⊢
  dsimp only at h ⊢
  have hc := cmtPtick_same m s
  split at h <;> try exact hc.core
  · next ht =>
    rw [if_pos ht]
    split at h
    · next ho =>
      rw [if_pos ho]
      split at h
      · next hw =>
        rw [if_pos hw]
        unfold watchdogReset at h ⊢
        split at h
        · next hm =>
          rw [if_pos hm]
          exact (hc.trans (same_wdt _ _)).core
        · split at h <;> cases h
      · next hw =>
        rw [if_neg hw]
        exact (hc.trans (same_wdt _ _)).core
    · next ho =>
      rw [if_neg ho]
      exact (hc.trans (same_wdt _ _)).core
  · next ht =>
    rw [if_neg ht]
    exact hc.core

theorem wakeUp_run {s : State} (h : s.proc = .run) : wakeUp s = s := by simp [wakeUp, h]

theorem dtcNmi_same (s : State) : Same s (dtcNmi s) := by
  unfold dtcNmi
  split
  · exact Same.refl s
  · exact (same_dtc s _).trans (stopAtRelease_same _)

theorem irqPin_core (n : Nat) (high : Bool) (s : State) : Core s (irqPin n high s) := by
  unfold irqPin
  dsimp only
  split <;> (constructor <;> first | rfl | exact id)

/-- An input pin, in program execution, that does not end it. -/
theorem pinEvent_core {p : Pin} {high : Bool} {s : State} (hs : s.proc = .run)
    (h : (pinEvent p high s).proc = .run) : Core s (pinEvent p high s) := by
  cases p with
  | res =>
    simp only [pinEvent, resPin, hs] at h ⊢
    split at h
    · next hc => rw [if_pos hc]; exact pins_run_core hs _
    · cases h
  | mres =>
    simp only [pinEvent, mresPin, hs] at h ⊢
    split at h
    · next hc => rw [if_pos hc]; exact pins_run_core hs _
    · cases h
  | hstby =>
    simp only [pinEvent, hstbyPin, hs] at h ⊢
    split at h
    · next hc => rw [if_pos hc]; exact pins_run_core hs _
    · cases h
  | nmi =>
    simp only [pinEvent, nmiPin]
    split
    · have hd := (pins_core s { s.pins with nmi := high }).trans
        ((same_intc _ { s.intc with nmiPending := true }).trans (dtcNmi_same _)).core
      rw [wakeUp_run (hd.proc.trans hs)]
      exact hd
    · exact pins_core s _
  | irq n =>
    simp only [pinEvent, irqEvent]
    have hi := irqPin_core n.val high s
    split
    · split
      · rw [wakeUp_run (hi.proc.trans hs)]
        exact hi
      · exact hi
    · exact pins_core s _
  | audrst =>
    simp only [pinEvent]
    split
    · exact pins_core s _
    · exact (pins_core s _).trans (audInit_same _).core
  | breq => exact pins_core s _
  | fwe => exact pins_core s _
  | md1 => exact pins_core s _
  | md0 => exact pins_core s _
  | audmd => exact pins_core s _

/-- The end of a coincidence after an access. -/
theorem cleared {s t : State} {x : Except Fault State} (hx : Answers x (Core s)) (h : x.map clearRaces = .ok t) :
    Core s t := by
  cases x with
  | error f => cases h
  | ok u =>
    cases h
    exact (hx u rfl).trans (clearRaces_same u).core

/-- What an event can do in program execution that it does not end. -/
theorem agentEvent_core {e : Event} {s t : State} (h : agentEvent e s = .ok t) (hs : s.proc = .run)
    (ht : t.proc = .run) : Core s t := by
  unfold agentEvent at h
  cases ha : agentAct e s with
  | error f => rw [ha] at h; cases h
  | ok u =>
    rw [ha] at h
    cases h
    have hr := refreshQueue_same u
    have hu : u.proc = .run := hr.proc.symm.trans ht
    refine Core.trans ?_ hr.core
    have hc := (clearRaces_same s).core
    have hcp : (clearRaces s).proc = .run := hc.proc.trans hs
    cases e <;> simp only [agentAct, Except.ok.injEq] at ha
    · subst ha; exact Core.refl s
    · exact cleared (dtcEvent_core _ _) ha
    · subst ha
      simp only [ptickEvent, hcp] at hu ⊢
      exact hc.trans (runPtick_core hu)
    · subst ha
      exact hc.trans (pinEvent_core hcp hu)
    · subst ha
      exact hc.trans (lineEvent_core _ _ _)
    · subst ha
      exact hc.trans (clockStopEvent_core _)
    · exact cleared (audRead_core _ _ _) ha
    · exact cleared (audWrite_core _ _ _ _) ha
    · subst ha
      exact hc.trans (masterAccess_core _ _ _ _)

/-- HSTBY rises in hardware standby with RES low: a power-on reset. -/
theorem hstbyPin_rises {s : State} (hp : s.proc = .hardware) (hr : s.pins.res = false) :
    hstbyPin true s = powerOnReset { s with pins := { s.pins with hstby := true } } := by
  simp [hstbyPin, hp, hr]

/-- HSTBY falls outside hardware standby: the power is cut. -/
theorem hstbyPin_falls {s : State} (hp : s.proc ≠ .hardware) :
    hstbyPin false s =
      { powerCut (cutExternalWrite { s with pins := { s.pins with hstby := false } }) with proc := .hardware } := by
  dsimp only [hstbyPin]
  split
  · next h => exact absurd h hp
  all_goals exact if_neg Bool.false_ne_true

/-! ## Between two accesses of the CPU -/

/-- What is left of the events between the accesses touches nothing else. -/
theorem inner_core (s : State) (l : List Event) : Core s { s with inner := l } := by
  constructor <;> first | rfl | exact id

/-- Who has the bus is no matter of the CPU's own state. -/
theorem settleBus_core (s : State) : Core s (settleBus s) := by constructor <;> first | rfl | exact id

theorem regainBus_core (s : State) : Core s (regainBus s) := by
  unfold regainBus
  split
  · constructor <;> first | rfl | exact id
  · exact Core.refl s

/-- What follows an event touches nothing of the CPU: the DTC's queue, the windows and the bus right. -/
theorem settled_core (s : State) : Core s (settleBus (boundWindows (refreshQueue s))) :=
  (refreshQueue_same s).core.trans ((same_windows _ _).core.trans (settleBus_core _))

@[simp] theorem settleBus_pins (s : State) : (settleBus s).pins = s.pins := rfl
@[simp] theorem settleBus_dtcHold (s : State) : (settleBus s).dtcHold = s.dtcHold := rfl
@[simp] theorem settleBus_byteAt (s : State) (a : Nat) : (settleBus s).byteAt a = s.byteAt a := rfl

/-- Who has the bus in program execution. -/
theorem settleBus_released {s : State} (hs : s.proc = .run) :
    (settleBus s).bsc.released = (!s.pins.breq && decide (s.dtcHold = .free)) := by simp [settleBus, hs]

/-- The CPU has the bus when it goes on. -/
@[simp] theorem regainBus_released (s : State) : (regainBus s).bsc.released = false := by
  unfold regainBus
  split
  · rfl
  · simp_all

/-- The events before the next access: the CPU goes on with its registers, or a reset ended its step. -/
theorem takeInner_cases (l : List Event) {s : State} (hs : s.proc = .run) :
    (∃ t, takeInner l s = .go t ∧ Core s t) ∨ (∃ t, takeInner l s = .abandoned t ∧ t.proc ≠ .run) ∨
      (∃ f, takeInner l s = .stop f) := by
  induction l generalizing s with
  | nil => exact .inl ⟨_, rfl, inner_core s _⟩
  | cons e rest ih =>
    have hb := settleBus_core s
    have hr : (settleBus s).proc = .run := hb.proc.trans hs
    have next {u : State} (hu : Core s u) (hp : u.proc = .run) :
        (∃ t, takeInner rest u = .go t ∧ Core s t) ∨ (∃ t, takeInner rest u = .abandoned t ∧ t.proc ≠ .run) ∨
          (∃ f, takeInner rest u = .stop f) := by
      rcases ih hp with ⟨t, e1, e2⟩ | h2
      · exact .inl ⟨t, e1, hu.trans e2⟩
      · exact .inr h2
    simp only [takeInner]
    split
    · split
      · exact next hb hr
      · exact .inl ⟨_, rfl, hb.trans (inner_core _ _)⟩
    · cases h : agentEvent e (settleBus s) with
      | error f => exact .inr (.inr ⟨f, rfl⟩)
      | ok t =>
        dsimp only
        split
        · next hp => exact next (hb.trans (agentEvent_core h hr (hp.trans hr))) (hp.trans hr)
        · next hp => exact .inr (.inl ⟨_, rfl, fun e => hp (e.trans hr.symm)⟩)

/-- Waiting for the bus leaves the CPU. -/
theorem awaitBus_core (n : Nat) (a : Word) (s : State) : Answers (awaitBus n a s) (Core s) := by
  induction n generalizing s with
  | zero => exact Answers.ok (Core.refl s)
  | succ n ih =>
    unfold awaitBus
    split
    · dsimp only
      cases h : dtcAdvance s.drawBit.1 s.drawBit.2 with
      | error f => exact Answers.error
      | ok t =>
        exact (ih _).after (((drawBit_same s).core.trans (dtcAdvance_core _ _ t h)).trans (clearRaces_same t).core)
    · exact Answers.ok (Core.refl s)

/-- What lies between two accesses: the CPU goes on with its registers, or a reset ended its step, or another agent's
access faulted. -/
theorem between_cases (a : Word) {s : State} (hs : s.proc = .run) :
    (∃ t, between a s = .go t ∧ Core s t) ∨ (∃ t, between a s = .abandoned t ∧ t.proc ≠ .run) ∨
      (∃ f, between a s = .stop f) := by
  have hc := (clearRaces_same s).core
  have hp : (clearRaces s).proc = .run := hc.proc.trans hs
  unfold between
  rcases takeInner_cases s.inner hp with ⟨t, e, h⟩ | ⟨t, e, h⟩ | ⟨f, e⟩
  · rw [e]
    dsimp only
    have hg : Core t (if s.inner.isEmpty then t else regainBus t) := by
      split
      · exact Core.refl t
      · exact regainBus_core t
    cases hw : awaitBus 1024 a (if s.inner.isEmpty then t else regainBus t) with
    | error f => exact .inr (.inr ⟨f, rfl⟩)
    | ok u => exact .inl ⟨u, rfl, ((hc.trans h).trans hg).trans (awaitBus_core _ _ _ u hw)⟩
  · rw [e]
    exact .inr (.inl ⟨t, rfl, h⟩)
  · rw [e]
    exact .inr (.inr ⟨f, rfl⟩)

theorem Reaches.core {s x : State} {a : Word} (h : Reaches s a x) : Core s x := by
  rcases between_cases a h.1 with ⟨t, e, c⟩ | ⟨t, e, -⟩ | ⟨f, e⟩ <;> rw [h.2] at e <;> cases e
  exact c

/-- What `alone` says, part by part. -/
theorem State.alone_iff {s : State} (h : s.alone = true) :
    s.inner = [] ∧ s.cmt.ch0.race = none ∧ s.cmt.ch1.race = none ∧ s.dtcHold = .free := by
  simpa [State.alone, and_assoc, List.isEmpty_iff] using h

theorem clearRaces_alone {s : State} (h : s.alone = true) : clearRaces s = s := by
  obtain ⟨-, h0, h1, -⟩ := s.alone_iff h
  simp [clearRaces, h0, h1]

/-- Where nothing comes between, the CPU goes on at once. -/
theorem between_alone (a : Word) {s : State} (h : s.alone = true) : between a s = .go s := by
  obtain ⟨hi, -, -, hd⟩ := s.alone_iff h
  have hb : s.dtcBlocks a = false := by simp [State.dtcBlocks, hd]
  have he : ({ s with inner := [] } : State) = s := by
    cases s
    simp only [State.mk.injEq, and_true, true_and] at hi ⊢
    exact hi.symm
  unfold between
  rw [clearRaces_alone h, hi]
  simp only [takeInner, he]
  rw [show (1024 : Nat) = 1023 + 1 from rfl, awaitBus]
  simp [hb]

end Sys2Proof.Machine
end

