-- ==== Sys2Proof/Laws/Encode.lean ====
section
/-! SUPPORT. The nibbles of an instruction word and of its fields: taken apart and put together again. -/

namespace Sys2Proof

theorem nib3_word4 (a b c d : BitVec 4) : nib (word4 a b c d) 3 = a := by
  apply BitVec.eq_of_getLsbD_eq
  intro i hi
  simp only [nib, word4, BitVec.getLsbD_extractLsb', BitVec.getLsbD_append]
  have h0 : ¬ (4 * 3 + i < 4) := by omega
  have h1 : ¬ (4 * 3 + i - 4 < 4) := by omega
  have h2 : ¬ (4 * 3 + i - 4 - 4 < 4) := by omega
  have h3 : 4 * 3 + i - 4 - 4 - 4 = i := by omega
  simp [hi, h0, h1, h2, h3]

theorem nib2_word4 (a b c d : BitVec 4) : nib (word4 a b c d) 2 = b := by
  apply BitVec.eq_of_getLsbD_eq
  intro i hi
  simp only [nib, word4, BitVec.getLsbD_extractLsb', BitVec.getLsbD_append]
  have h0 : ¬ (4 * 2 + i < 4) := by omega
  have h1 : ¬ (4 * 2 + i - 4 < 4) := by omega
  have h2 : 4 * 2 + i - 4 - 4 = i := by omega
  simp [hi, h0, h1, h2]

theorem nib1_word4 (a b c d : BitVec 4) : nib (word4 a b c d) 1 = c := by
  apply BitVec.eq_of_getLsbD_eq
  intro i hi
  simp only [nib, word4, BitVec.getLsbD_extractLsb', BitVec.getLsbD_append]
  have h0 : ¬ (4 * 1 + i < 4) := by omega
  have h1 : 4 * 1 + i - 4 = i := by omega
  simp [hi, h0, h1]

theorem nib0_word4 (a b c d : BitVec 4) : nib (word4 a b c d) 0 = d := by
  apply BitVec.eq_of_getLsbD_eq
  intro i hi
  simp only [nib, word4, BitVec.getLsbD_extractLsb', BitVec.getLsbD_append]
  simp [hi]

/-- A word is the word of its nibbles. -/
theorem word4_nib (w : Half) : word4 (nib w 3) (nib w 2) (nib w 1) (nib w 0) = w := by
  apply BitVec.eq_of_toNat_eq
  simp only [word4, nib, BitVec.toNat_append, BitVec.extractLsb'_toNat]
  have := w.isLt
  simp only [Nat.shiftLeft_eq, Nat.shiftRight_eq_div_pow]
  rw [← Nat.shiftLeft_eq, ← Nat.shiftLeft_eq, ← Nat.shiftLeft_eq,
    ← Nat.shiftLeft_add_eq_or_of_lt (by omega), ← Nat.shiftLeft_add_eq_or_of_lt (by omega),
    ← Nat.shiftLeft_add_eq_or_of_lt (by omega)]
  simp only [Nat.shiftLeft_eq]
  omega

/-- The decoder on a word given by its nibbles. -/
theorem decode_word4 (a b c d : BitVec 4) : decode (word4 a b c d) = decodeNibbles a b c d := by
  unfold decode
  rw [nib3_word4, nib2_word4, nib1_word4, nib0_word4]

/-- An 8-bit field from its two nibbles. -/
theorem nib8_append (v : BitVec 8) : nib8 v 1 ++ nib8 v 0 = v := by
  revert v; decide

/-- The nibbles of an 8-bit field. -/
theorem nib8_of_append (c d : BitVec 4) : nib8 (c ++ d) 1 = c ∧ nib8 (c ++ d) 0 = d := by
  revert c d; decide

/-- A 12-bit field from its three nibbles. -/
theorem nib12_append (v : BitVec 12) : nib12 v 2 ++ nib12 v 1 ++ nib12 v 0 = v := by
  apply BitVec.eq_of_toNat_eq
  simp only [nib12, BitVec.toNat_append, BitVec.extractLsb'_toNat]
  have := v.isLt
  simp only [Nat.shiftRight_eq_div_pow]
  rw [← Nat.shiftLeft_add_eq_or_of_lt (by omega), ← Nat.shiftLeft_add_eq_or_of_lt (by omega)]
  simp only [Nat.shiftLeft_eq]
  omega

/-- The nibbles of a 12-bit field. -/
theorem nib12_of_append (b c d : BitVec 4) :
    nib12 (b ++ c ++ d) 2 = b ∧ nib12 (b ++ c ++ d) 1 = c ∧ nib12 (b ++ c ++ d) 0 = d := by
  revert b c d; decide

/-- A displacement that fits its field survives it. -/
theorem d4_toNat {d : Nat} (h : d < 16) : (d4 d).toNat = d := by
  simp [d4, Nat.mod_eq_of_lt h]

theorem disp8_d8 {d : Nat} (h : d < 256) : disp8 (d8hi d) (d4 d) = d := by
  simp [disp8, d8hi, d4]
  omega

theorem d4_disp8 (c d : BitVec 4) : d8hi (disp8 c d) = c ∧ d4 (disp8 c d) = d := by
  revert c d; decide

end Sys2Proof
end

