-- ==== Sys2Proof/Laws/Ops.lean ====
section
/-! SUPPORT. One lemma per shared operation of the meanings, saying once what it can do: the end of an instruction, the
loads and stores with their address errors, the branches, and the entry of an exception. -/

namespace Sys2Proof.Machine

/-! ## The end of an instruction -/

/-- What the end of an instruction changes: the pc, the slot and the interrupt block; of the modules only the trace. -/
structure Ended (u t : State) (block : Bool) : Prop where
  regs : t.regs = u.regs
  sr : t.sr = u.sr
  gbr : t.gbr = u.gbr
  vbr : t.vbr = u.vbr
  mach : t.mach = u.mach
  macl : t.macl = u.macl
  pr : t.pr = u.pr
  mem : t.mem = u.mem
  bootMat : t.bootMat = u.bootMat
  ramEpoch : t.ramEpoch = u.ramEpoch
  agenda : t.agenda = u.agenda
  inner : t.inner = u.inner
  turn : t.turn = u.turn
  moves : u.movesOn t block
  modules : u.keepsModules t

theorem finish_ended (u : State) : ∃ t, finish u = .next t ∧ Ended u t false := by
  refine ⟨_, rfl, ?_⟩
  constructor <;> first
    | simp; done
    | exact ⟨advance_pc u, advance_slot u, rfl⟩
    | (constructor <;> simp)

theorem finishBlocking_ended (u : State) : ∃ t, finishBlocking u = .next t ∧ Ended u t true := by
  refine ⟨_, rfl, ?_⟩
  constructor <;> first
    | simp; done
    | exact ⟨advance_pc u, advance_slot u, rfl⟩
    | (constructor <;> simp)

/-- After the end every register reads as before it. -/
theorem Ended.reg {u t : State} {b : Bool} (h : Ended u t b) (r : Reg) : t.reg r = u.reg r := by
  simp [State.reg, h.regs]

theorem Ended.special {u t : State} {b : Bool} (h : Ended u t b) (x : Special) : t.special x = u.special x := by
  cases x <;> simp [State.special, h.gbr, h.vbr, h.mach, h.macl, h.pr]

theorem Ended.byteAt {u t : State} {b : Bool} (h : Ended u t b) (a : Nat) : t.byteAt a = u.byteAt a := by
  simp [State.byteAt, h.mem, h.ramEpoch, h.modules.part]

theorem Ended.mac {u t : State} {b : Bool} (h : Ended u t b) : t.mac = u.mac := by simp [State.mac, h.mach, h.macl]

theorem Ended.flagT {u t : State} {b : Bool} (h : Ended u t b) : t.flagT = u.flagT := by simp [State.flagT, h.sr]

/-! ## Loads and stores -/

/-- A point before an access: the CPU comes to it with its registers, or a reset ended its step, or another agent's access
faulted. -/
theorem beforeAccess_cases (a : Word) {s : State} (hs : s.proc = .run) :
    (∃ x, Reaches s a x ∧ ∀ k, beforeAccess a s k = k x) ∨
      (∃ t, t.proc ≠ .run ∧ ∀ k, beforeAccess a s k = .next t) ∨ (∃ f, ∀ k, beforeAccess a s k = .fault f) := by
  unfold beforeAccess
  rcases between_cases a hs with ⟨t, e, -⟩ | ⟨t, e, h⟩ | ⟨f, e⟩
  · exact .inl ⟨t, ⟨hs, e⟩, fun k => by rw [e]⟩
  · exact .inr (.inl ⟨t, h, fun k => by rw [e]⟩)
  · exact .inr (.inr ⟨f, fun k => by rw [e]⟩)

/-- What goes on after a point is what the CPU does in the state it comes with. -/
theorem Reaches.beforeAccess {s x : State} {a : Word} (h : Reaches s a x) (k : State → Result) :
    beforeAccess a s k = k x := by
  simp [Machine.beforeAccess, h.2]

theorem beforeAccess_alone (a : Word) {s : State} (k : State → Result) (h : s.alone = true) :
    beforeAccess a s k = k s := by
  simp [Machine.beforeAccess, between_alone a h]

/-- A load continues, or its access was an address error, or the step ended before it, or it stopped. -/
theorem loadOr_cases (z : Size) (a : Word) (f : Word → State → State) {s : State} (k : Word → State → Result)
    (hs : s.proc = .run) :
    (∃ x v u, Reaches s a x ∧ cpuRead x z a = .ok v u ∧ loadOr z a f s k = k v u) ∨
    (∃ x u, Reaches s a x ∧ cpuRead x z a = .addressError u ∧
      loadOr z a f s k = addressErrorException (spoilDestination z a f u)) ∨
    (∃ t, t.proc ≠ .run ∧ loadOr z a f s k = .next t) ∨ (∃ e, loadOr z a f s k = .fault e) := by
  unfold loadOr
  rcases beforeAccess_cases a hs with ⟨x, hx, e⟩ | ⟨t, ht, e⟩ | ⟨g, e⟩
  · rw [e]
    cases h : cpuRead x z a with
    | ok v u => exact .inl ⟨x, v, u, hx, h, rfl⟩
    | addressError u => exact .inr (.inl ⟨x, u, hx, h, rfl⟩)
    | stop g => exact .inr (.inr (.inr ⟨g, rfl⟩))
  · exact .inr (.inr (.inl ⟨t, ht, e _⟩))
  · exact .inr (.inr (.inr ⟨g, e _⟩))

/-- The value a load that succeeds goes on with. -/
theorem loadOr_ok {z : Size} {a v : Word} {s x u : State} (f : Word → State → State) (k : Word → State → Result)
    (hx : Reaches s a x) (h : cpuRead x z a = .ok v u) : loadOr z a f s k = k v u := by
  simp [loadOr, hx.beforeAccess, h]

/-- The write of a store continues, or was an address error, or it stopped. -/
theorem storeNow_cases (z : Size) (a v : Word) (s : State) (k : State → Result) :
    (∃ u, cpuWrite s z a v = .ok () u ∧ storeNow z a v s k = k u) ∨
    (∃ u, cpuWrite s z a v = .addressError u ∧ storeNow z a v s k = addressErrorException (spoilContainer z a u)) ∨
    (∃ f, cpuWrite s z a v = .stop f ∧ storeNow z a v s k = .fault f) := by
  unfold storeNow
  cases h : cpuWrite s z a v with
  | ok x u => exact .inl ⟨u, rfl, rfl⟩
  | addressError u => exact .inr (.inl ⟨u, rfl, rfl⟩)
  | stop f => exact .inr (.inr ⟨f, rfl, rfl⟩)

/-- A store is its write in the state the CPU comes to it with, or the step ended before it, or it stopped. -/
theorem store_cases (z : Size) (a v : Word) {s : State} (k : State → Result) (hs : s.proc = .run) :
    (∃ x, Reaches s a x ∧ store z a v s k = storeNow z a v x k) ∨ (∃ t, t.proc ≠ .run ∧ store z a v s k = .next t) ∨
      (∃ f, store z a v s k = .fault f) := by
  unfold store
  rcases beforeAccess_cases a hs with ⟨x, hx, e⟩ | ⟨t, ht, e⟩ | ⟨g, e⟩
  · exact .inl ⟨x, hx, e _⟩
  · exact .inr (.inl ⟨t, ht, e _⟩)
  · exact .inr (.inr ⟨g, e _⟩)

theorem store_ok {z : Size} {a v : Word} {s x u : State} (k : State → Result) (hx : Reaches s a x)
    (h : cpuWrite x z a v = .ok () u) : store z a v s k = k u := by
  simp [store, storeNow, hx.beforeAccess, h]

/-- What a misaligned load into a register leaves: nothing but that register changes. -/
theorem spoilDestination_reg (z : Size) (a : Word) (n : Reg) (s : State) :
    s.keepsRegs (spoilDestination z a (fun v s => s.setReg n v) s) [n] ∧
      (spoilDestination z a (fun v s => s.setReg n v) s).sr = s.sr ∧
      s.keepsSpecial (spoilDestination z a (fun v s => s.setReg n v) s) [] ∧
      s.keepsMemory (spoilDestination z a (fun v s => s.setReg n v) s) := by
  unfold spoilDestination
  split
  · refine ⟨fun r hr => ?_, rfl, fun x _ => by cases x <;> rfl, fun _ => rfl⟩
    rw [State.reg_setReg_ne _ _ (by simpa using hr)]
    rfl
  · exact ⟨fun _ _ => rfl, rfl, fun _ _ => rfl, fun _ => rfl⟩

theorem forceSource_same (v : Word) (s : State) : Same s (forceSource v s) := by
  unfold forceSource
  split
  · exact same_ubc s _
  · split
    · exact same_ubc s _
    · exact Same.refl s

theorem forceDestination_same (v : Word) (s : State) : Same s (forceDestination v s) := by
  unfold forceDestination
  split
  · exact same_ubc s _
  · split
    · exact same_ubc s _
    · exact Same.refl s

/-- A value put past every check leaves the CPU and memory alone. -/
theorem regForce_same (id : RegId) (v : Word) (s : State) : Same s (regForce id v s) := by
  unfold regForce
  dsimp only
  split <;>
    first
      | exact intcWrite_same _ _ _ s
      | exact same_intc s _
      | exact forceSource_same _ s
      | exact forceDestination_same _ s
      | exact ubcPut_same _ _ s
      | exact (ubcPut_same _ _ s).trans (same_ubc _ _)
      | exact same_ubc s _
      | exact same_cmt s _
      | exact (clearRaces_same s).trans (cmtWrite_same _ _ _ _)
      | exact frqcrPut_same _ s
      | exact same_cpg s _
      | exact same_wdt s _
      | exact powerPut_same _ _ s
      | exact bscPut_same _ _ s
      | exact same_bsc s _
      | exact same_dtc s _
      | exact flashPut_same _ _ s
      | exact ramerWrite_same _ _ s
      | exact audPut_same _ _ s

/-- What a register holds costs nothing but free values. -/
theorem regHeld_same (id : RegId) (s : State) : Same s (regHeld id s).2 := by
  unfold regHeld
  split
  · exact brsrWord_same s
  · exact brdrWord_same s
  · constructor <;> (try constructor) <;> rfl

/-- A byte made open: the CPU keeps its registers and the memories their canonical form. -/
theorem spoilRegister_core (r : RegDesc) (a : Nat) (s : State) : Core s (spoilRegister r a s) :=
  (((drawWord_same s).trans (regHeld_same r.id _)).trans (regForce_same _ _ _)).core

theorem store_core (s : State) (z : Size) (a : Nat) (v : Word) : Core s (s.store z a v) :=
  (store_same s z a v).core (s.store_wf z a v)

theorem spoilByte_core (a : Nat) (s : State) : Core s (spoilByte a s) := by
  have hd := (drawWord_same s).core
  unfold spoilByte
  dsimp only
  split
  · exact hd.trans (store_core _ _ _ _)
  · exact hd.trans (store_core _ _ _ _)
  · exact hd.trans (store_core _ _ _ _)
  · have hp := hd.trans (showsRam_same s.drawWord.2 a).core
    split
    · exact hp.trans (store_core _ _ _ _)
    · split
      · exact hp.trans (by constructor <;> first | rfl | exact id | exact Memory.wf_put _ _ _)
      · exact hp.trans (store_core _ _ _ _)
  · split
    · exact spoilRegister_core _ _ s
    · exact Core.refl s
  · exact Core.refl s
  · exact Core.refl s

theorem spoilBytes_core (n a : Nat) (s : State) : Core s (spoilBytes n a s) := by
  induction n generalizing a s with
  | zero => exact Core.refl s
  | succ n ih => exact (spoilByte_core a s).trans (ih _ _)

/-- What a misaligned store leaves in memory: every register is kept. -/
theorem spoilContainer_core (z : Size) (a : Word) (s : State) : Core s (spoilContainer z a s) := by
  unfold spoilContainer
  split
  · exact spoilBytes_core _ _ s
  · exact Core.refl s

/-- The two operands of MAC, each read in the state the CPU comes to it with. -/
theorem multiplyAccumulate_ok {z : Size} {step a b : Word} {m n : Reg} {s x u y w : State}
    {k : Word → Word → State → State} (hx : Reaches s (s.reg n) x) (h1 : cpuRead x z (s.reg n) = .ok a u)
    (hy : Reaches u (if m = n then s.reg m + step else s.reg m) y)
    (h2 : cpuRead y z (if m = n then s.reg m + step else s.reg m) = .ok b w) :
    multiplyAccumulate z step m n s k =
      finish (k a b ((w.setReg n (s.reg n + step)).setReg m ((w.setReg n (s.reg n + step)).reg m + step))) := by
  unfold multiplyAccumulate load
  rw [loadOr_ok _ _ hx h1, loadOr_ok _ _ hy h2]

/-! ## Branches -/

/-- A branch that is not delayed. -/
theorem branchTo_next (target : Word) (s : State) :
    ∃ t, branchTo target s = .next t ∧ t.pc = target ∧ t.slot = s.slot ∧ t.irqBlock = false ∧ t.regs = s.regs ∧
      t.sr = s.sr ∧ (∀ x, t.special x = s.special x) ∧ t.mem = s.mem ∧ (∀ a, t.byteAt a = s.byteAt a) ∧
      s.keepsModules t := by
  obtain ⟨q, e⟩ := pcTrace_eq s.pc target { s with pc := target, irqBlock := false }
  refine ⟨_, rfl, ?_⟩
  rw [e]
  refine ⟨rfl, rfl, rfl, rfl, rfl, fun x => by cases x <;> rfl, rfl, fun _ => rfl, ?_⟩
  constructor <;> rfl

/-- Outside a delay slot the check passes. -/
theorem notInSlot_none {s : State} (k : State → Result) (h : s.slot = none) : notInSlot s k = k s := by
  simp [notInSlot, h]

/-- In a delay slot the instruction is slot illegal. -/
theorem notInSlot_some {s : State} {d : DelaySlot} (k : State → Result) (h : s.slot = some d) :
    notInSlot s k = raiseException 6 s := by
  simp [notInSlot, h]

/-! ## Exceptions -/

/-- What an exception entry keeps: every register but R15, the special registers, the processing state, the part and the
mode, and the canonical form of the memories. -/
structure EntryKeeps (s t : State) : Prop where
  regs : s.keepsRegs t [15]
  gbr : t.gbr = s.gbr
  vbr : t.vbr = s.vbr
  mach : t.mach = s.mach
  macl : t.macl = s.macl
  pr : t.pr = s.pr
  proc : t.proc = s.proc
  part : t.part = s.part
  mode : t.mode = s.mode
  ramEpoch : t.ramEpoch = s.ramEpoch
  agenda : t.agenda = s.agenda
  turn : t.turn = s.turn
  wf : Memory.wf s.mem = true → Memory.wf t.mem = true
  bootWf : Memory.wf s.bootMat = true → Memory.wf t.bootMat = true

theorem EntryKeeps.trans {s t u : State} (a : EntryKeeps s t) (b : EntryKeeps t u) : EntryKeeps s u :=
  ⟨fun r h => (b.regs r h).trans (a.regs r h), b.gbr.trans a.gbr, b.vbr.trans a.vbr, b.mach.trans a.mach,
   b.macl.trans a.macl, b.pr.trans a.pr, b.proc.trans a.proc, b.part.trans a.part, b.mode.trans a.mode,
   b.ramEpoch.trans a.ramEpoch, b.agenda.trans a.agenda, b.turn.trans a.turn, fun h => b.wf (a.wf h),
   fun h => b.bootWf (a.bootWf h)⟩

theorem Core.entryKeeps {s t : State} (h : Core s t) : EntryKeeps s t :=
  ⟨fun r _ => h.reg r, h.gbr, h.vbr, h.mach, h.macl, h.pr, h.proc, h.part, h.mode, h.ramEpoch, h.agenda, h.turn, h.wf,
   h.bootWf⟩

theorem setReg15_entryKeeps (s : State) (v : Word) : EntryKeeps s (s.setReg 15 v) := by
  constructor <;> first
    | rfl
    | exact fun r h => s.reg_setReg_ne v (by simpa using h)
    | exact id

/-- The stack write of an entry, whose step goes on in program execution. -/
theorem pushWrite_keeps {s t : State} {a v : Word} {b : Bool} {k : Bool → State → Result}
    (h : pushWrite a v b s k = .next t) (hs : s.proc = .run) (ht : t.proc = .run) :
    ∃ c u, Core s u ∧ k c u = .next t := by
  unfold pushWrite at h
  rcases beforeAccess_cases a hs with ⟨x, hx, e⟩ | ⟨q, hq, e⟩ | ⟨g, e⟩
  · rw [e] at h
    have hl := cpuWrite_lands x .long a v
    split at h
    · next u w => rw [w] at hl; exact ⟨_, u, hx.core.trans hl.core, h⟩
    · next u w => rw [w] at hl; exact ⟨_, u, hx.core.trans hl.core, h⟩
    · cases h
  · rw [e] at h
    cases h
    exact absurd ht hq
  · rw [e] at h
    cases h

/-- One stack write of an entry: R15 is four lower, and of the CPU nothing else changed. -/
theorem pushEntry_keeps {s t : State} {v : Word} {k : Bool → State → Result} (h : pushEntry v s k = .next t)
    (hs : s.proc = .run) (ht : t.proc = .run) :
    ∃ c u, EntryKeeps s u ∧ u.sr = s.sr ∧ u.reg 15 = s.reg 15 - 4 ∧ k c u = .next t := by
  have key {x : State} (hx : Same (s.setReg 15 (s.reg 15 - 4)) x) {a w : Word} {b : Bool}
      (h : pushWrite a w b x k = .next t) :
      ∃ c u, EntryKeeps s u ∧ u.sr = s.sr ∧ u.reg 15 = s.reg 15 - 4 ∧ k c u = .next t := by
    obtain ⟨c, u, hc, e⟩ := pushWrite_keeps h (hx.proc.trans hs) ht
    have hc := hx.core.trans hc
    refine ⟨c, u, (setReg15_entryKeeps s _).trans hc.entryKeeps, hc.sr, ?_, e⟩
    rw [hc.reg]
    exact State.reg_setReg_same s 15 _
  unfold pushEntry at h
  dsimp only at h
  split at h
  · exact key (drawWord_same _) h
  · exact key (Same.refl _) h

/-- The new mask leaves all but SR. -/
theorem raiseMask_entryKeeps (l : Option Nat) (s : State) : EntryKeeps s (raiseMask l s) := by
  cases l <;> (constructor <;> first | rfl | exact fun _ _ => rfl | exact id)

/-- The vector read and the jump. -/
theorem jumpVector_keeps {vec : Nat} {saved : Word} {s t : State} {k : State → Result}
    (h : jumpVector vec saved s k = .next t) (hs : s.proc = .run) (ht : t.proc = .run) :
    ∃ u, EntryKeeps s u ∧ u.sr = s.sr ∧ u.regs = s.regs ∧ u.slot = none ∧ u.irqBlock = false ∧ k u = .next t := by
  unfold jumpVector at h
  dsimp only at h
  split at h
  · cases h
  · rcases beforeAccess_cases (s.vbr + BitVec.ofNat 32 (4 * vec)) hs with ⟨x, hx, e⟩ | ⟨q, hq, e⟩ | ⟨g, e⟩
    · rw [e] at h
      split at h
      · next v u w =>
        have hc := hx.core.trans (cpuRead_ok w).core
        obtain ⟨q, hq⟩ := pcTrace_eq saved v { u with pc := v, slot := none, irqBlock := false }
        refine ⟨_, ?_, ?_, ?_, ?_, ?_, h⟩ <;> rw [hq]
        · exact ⟨fun r _ => hc.reg r, hc.gbr, hc.vbr, hc.mach, hc.macl, hc.pr, hc.proc, hc.part, hc.mode, hc.ramEpoch,
            hc.agenda, hc.turn, hc.wf, hc.bootWf⟩
        · exact hc.sr
        · exact hc.regs
        · rfl
        · rfl
      · cases h
      · cases h
    · rw [e] at h
      cases h
      exact absurd ht hq
    · rw [e] at h
      cases h

/-- One entry: all it can do to the CPU's registers. -/
theorem enterOnce_keeps {vec : Nat} {saved : Word} {l : Option Nat} {s t : State} {k : Bool → State → Result}
    (h : enterOnce vec saved l s k = .next t) (hs : s.proc = .run) (ht : t.proc = .run) :
    ∃ c u, EntryKeeps s u ∧ u.sr = (raiseMask l s).sr ∧ u.reg 15 = s.reg 15 - 8 ∧ u.slot = none ∧
      u.irqBlock = false ∧ k c u = .next t := by
  unfold enterOnce at h
  obtain ⟨c1, u1, k1, r1, n1, h⟩ := pushEntry_keeps h hs ht
  obtain ⟨c2, u2, k2, r2, n2, h⟩ := pushEntry_keeps h (k1.proc.trans hs) ht
  have k12 := (k1.trans k2).trans (raiseMask_entryKeeps l u2)
  obtain ⟨u3, k3, r3, n3, o3, i3, h⟩ := jumpVector_keeps h (k12.proc.trans hs) ht
  refine ⟨_, u3, k12.trans k3, ?_, ?_, o3, i3, h⟩
  · rw [r3]
    cases l <;> simp [raiseMask, r2, r1]
  · rw [State.reg, n3]
    have : (raiseMask l u2).regs = u2.regs := by cases l <;> rfl
    simp only [this]
    show u2.reg 15 = _
    rw [n2, n1]
    bv_omega

/-- The entry for a CPU address error: all it can do to the CPU's registers (rules R421, R446). -/
theorem enterAddressError_keeps {saved : Word} {s t : State} (h : enterAddressError saved s = .next t)
    (hs : s.proc = .run) (ht : t.proc = .run) :
    EntryKeeps s t ∧ t.sr = s.sr ∧ t.slot = none ∧ t.irqBlock = false := by
  obtain ⟨c, u, k1, r1, -, o1, i1, h⟩ := enterOnce_keeps h hs ht
  cases h
  exact ⟨k1, r1, o1, i1⟩

/-- Taking an exception: all it can do to the CPU's registers, whatever the stack (rules R421, R425, R446). -/
theorem enter_keeps {vec : Nat} {saved : Word} {l : Option Nat} {s t : State} (h : enter vec saved l s = .next t)
    (hs : s.proc = .run) (ht : t.proc = .run) :
    EntryKeeps s t ∧ t.sr = (raiseMask l s).sr ∧ t.slot = none ∧ t.irqBlock = false := by
  obtain ⟨c, u, k1, r1, -, o1, i1, h⟩ := enterOnce_keeps h hs ht
  split at h
  · obtain ⟨k2, r2, o2, i2⟩ := enterAddressError_keeps h (k1.proc.trans hs) ht
    exact ⟨k1.trans k2, r2.trans r1, o2, i2⟩
  · cases h
    exact ⟨k1, r1, o1, i1⟩

/-- Dropping break requests touches the UBC alone. -/
theorem ubcCancel_same (k : Bool) (s : State) : Same s (ubcCancel k s) := same_ubc s _

/-- An exception of the instruction at pc is an entry, from a state that differs from the given one in the UBC and, in
a delay slot, in the undone PR. -/
theorem raiseWith_cases (k : Bool) (s : State) (entry : Word → State → Result) :
    (s.slot = none ∧ raiseWith k s entry = entry s.pc (ubcCancel k s)) ∨
    (∃ d, s.slot = some d ∧ d.rte = true ∧ raiseWith k s entry = .fault .exceptionInRteSlot) ∨
    (∃ d, s.slot = some d ∧ d.rte = false ∧
      raiseWith k s entry = entry d.branch { ubcCancel k s with pr := d.prBefore }) := by
  unfold raiseWith
  dsimp only
  rw [State.ubcCancel_slot]
  cases h : s.slot with
  | none => exact .inl ⟨rfl, rfl⟩
  | some d =>
    cases hr : d.rte with
    | true => exact .inr (.inl ⟨d, rfl, hr, by simp [hr]⟩)
    | false => exact .inr (.inr ⟨d, rfl, hr, by simp [hr]⟩)

end Sys2Proof.Machine
end

