-- ==== Sys2Proof/Laws/PerInstr.lean ====
section
/-! SUPPORT. Statements made once per instruction: the family EncodeMatches says that the encoder's word carries the fixed
bits that spec/opcode_table.json gives the instruction's row (rule R159). -/

namespace Sys2Proof

/-- The conjunction of two words is taken nibble by nibble. -/
theorem word4_and (a b c d a' b' c' d' : BitVec 4) :
    word4 a b c d &&& word4 a' b' c' d' = word4 (a &&& a') (b &&& b') (c &&& c') (d &&& d') := by
  have h1 : (a ++ b) &&& (a' ++ b') = (a &&& a') ++ (b &&& b') := BitVec.and_append
  have h2 : ((a ++ b) ++ c) &&& ((a' ++ b') ++ c') = ((a &&& a') ++ (b &&& b')) ++ (c &&& c') :=
    BitVec.and_append.trans (congrArg (· ++ (c &&& c')) h1)
  exact BitVec.and_append.trans (congrArg (· ++ (d &&& d')) h2)

/-- The mask and the match of the instruction's row in spec/opcode_table.json. -/
def Laws.tableRow : Instr → Half × Half
  | .movImm _ _ => (0xF000, 0xE000)
  | .movWPc _ _ => (0xF000, 0x9000)
  | .movLPc _ _ => (0xF000, 0xD000)
  | .mov _ _ => (0xF00F, 0x6003)
  | .movBStore _ _ => (0xF00F, 0x2000)
  | .movWStore _ _ => (0xF00F, 0x2001)
  | .movLStore _ _ => (0xF00F, 0x2002)
  | .movBLoad _ _ => (0xF00F, 0x6000)
  | .movWLoad _ _ => (0xF00F, 0x6001)
  | .movLLoad _ _ => (0xF00F, 0x6002)
  | .movBStoreDec _ _ => (0xF00F, 0x2004)
  | .movWStoreDec _ _ => (0xF00F, 0x2005)
  | .movLStoreDec _ _ => (0xF00F, 0x2006)
  | .movBLoadInc _ _ => (0xF00F, 0x6004)
  | .movWLoadInc _ _ => (0xF00F, 0x6005)
  | .movLLoadInc _ _ => (0xF00F, 0x6006)
  | .movBStoreDisp _ _ => (0xFF00, 0x8000)
  | .movWStoreDisp _ _ => (0xFF00, 0x8100)
  | .movLStoreDisp _ _ _ => (0xF000, 0x1000)
  | .movBLoadDisp _ _ => (0xFF00, 0x8400)
  | .movWLoadDisp _ _ => (0xFF00, 0x8500)
  | .movLLoadDisp _ _ _ => (0xF000, 0x5000)
  | .movBStoreIdx _ _ => (0xF00F, 0x0004)
  | .movWStoreIdx _ _ => (0xF00F, 0x0005)
  | .movLStoreIdx _ _ => (0xF00F, 0x0006)
  | .movBLoadIdx _ _ => (0xF00F, 0x000C)
  | .movWLoadIdx _ _ => (0xF00F, 0x000D)
  | .movLLoadIdx _ _ => (0xF00F, 0x000E)
  | .movBStoreGbr _ => (0xFF00, 0xC000)
  | .movWStoreGbr _ => (0xFF00, 0xC100)
  | .movLStoreGbr _ => (0xFF00, 0xC200)
  | .movBLoadGbr _ => (0xFF00, 0xC400)
  | .movWLoadGbr _ => (0xFF00, 0xC500)
  | .movLLoadGbr _ => (0xFF00, 0xC600)
  | .mova _ => (0xFF00, 0xC700)
  | .movt _ => (0xF0FF, 0x0029)
  | .swapB _ _ => (0xF00F, 0x6008)
  | .swapW _ _ => (0xF00F, 0x6009)
  | .xtrct _ _ => (0xF00F, 0x200D)
  | .add _ _ => (0xF00F, 0x300C)
  | .addImm _ _ => (0xF000, 0x7000)
  | .addc _ _ => (0xF00F, 0x300E)
  | .addv _ _ => (0xF00F, 0x300F)
  | .cmpEqImm _ => (0xFF00, 0x8800)
  | .cmpEq _ _ => (0xF00F, 0x3000)
  | .cmpHs _ _ => (0xF00F, 0x3002)
  | .cmpGe _ _ => (0xF00F, 0x3003)
  | .cmpHi _ _ => (0xF00F, 0x3006)
  | .cmpGt _ _ => (0xF00F, 0x3007)
  | .cmpPl _ => (0xF0FF, 0x4015)
  | .cmpPz _ => (0xF0FF, 0x4011)
  | .cmpStr _ _ => (0xF00F, 0x200C)
  | .div1 _ _ => (0xF00F, 0x3004)
  | .div0s _ _ => (0xF00F, 0x2007)
  | .div0u => (0xFFFF, 0x0019)
  | .dmulsL _ _ => (0xF00F, 0x300D)
  | .dmuluL _ _ => (0xF00F, 0x3005)
  | .dt _ => (0xF0FF, 0x4010)
  | .extsB _ _ => (0xF00F, 0x600E)
  | .extsW _ _ => (0xF00F, 0x600F)
  | .extuB _ _ => (0xF00F, 0x600C)
  | .extuW _ _ => (0xF00F, 0x600D)
  | .macL _ _ => (0xF00F, 0x000F)
  | .macW _ _ => (0xF00F, 0x400F)
  | .mulL _ _ => (0xF00F, 0x0007)
  | .mulsW _ _ => (0xF00F, 0x200F)
  | .muluW _ _ => (0xF00F, 0x200E)
  | .neg _ _ => (0xF00F, 0x600B)
  | .negc _ _ => (0xF00F, 0x600A)
  | .sub _ _ => (0xF00F, 0x3008)
  | .subc _ _ => (0xF00F, 0x300A)
  | .subv _ _ => (0xF00F, 0x300B)
  | .andReg _ _ => (0xF00F, 0x2009)
  | .andImm _ => (0xFF00, 0xC900)
  | .andB _ => (0xFF00, 0xCD00)
  | .notReg _ _ => (0xF00F, 0x6007)
  | .orReg _ _ => (0xF00F, 0x200B)
  | .orImm _ => (0xFF00, 0xCB00)
  | .orB _ => (0xFF00, 0xCF00)
  | .tasB _ => (0xF0FF, 0x401B)
  | .tst _ _ => (0xF00F, 0x2008)
  | .tstImm _ => (0xFF00, 0xC800)
  | .tstB _ => (0xFF00, 0xCC00)
  | .xorReg _ _ => (0xF00F, 0x200A)
  | .xorImm _ => (0xFF00, 0xCA00)
  | .xorB _ => (0xFF00, 0xCE00)
  | .rotl _ => (0xF0FF, 0x4004)
  | .rotr _ => (0xF0FF, 0x4005)
  | .rotcl _ => (0xF0FF, 0x4024)
  | .rotcr _ => (0xF0FF, 0x4025)
  | .shal _ => (0xF0FF, 0x4020)
  | .shar _ => (0xF0FF, 0x4021)
  | .shll _ => (0xF0FF, 0x4000)
  | .shlr _ => (0xF0FF, 0x4001)
  | .shll2 _ => (0xF0FF, 0x4008)
  | .shlr2 _ => (0xF0FF, 0x4009)
  | .shll8 _ => (0xF0FF, 0x4018)
  | .shlr8 _ => (0xF0FF, 0x4019)
  | .shll16 _ => (0xF0FF, 0x4028)
  | .shlr16 _ => (0xF0FF, 0x4029)
  | .bf _ => (0xFF00, 0x8B00)
  | .bfS _ => (0xFF00, 0x8F00)
  | .bt _ => (0xFF00, 0x8900)
  | .btS _ => (0xFF00, 0x8D00)
  | .bra _ => (0xF000, 0xA000)
  | .braf _ => (0xF0FF, 0x0023)
  | .bsr _ => (0xF000, 0xB000)
  | .bsrf _ => (0xF0FF, 0x0003)
  | .jmp _ => (0xF0FF, 0x402B)
  | .jsr _ => (0xF0FF, 0x400B)
  | .rts => (0xFFFF, 0x000B)
  | .clrt => (0xFFFF, 0x0008)
  | .sett => (0xFFFF, 0x0018)
  | .clrmac => (0xFFFF, 0x0028)
  | .nop => (0xFFFF, 0x0009)
  | .ldcSr _ => (0xF0FF, 0x400E)
  | .ldcGbr _ => (0xF0FF, 0x401E)
  | .ldcVbr _ => (0xF0FF, 0x402E)
  | .ldcLSr _ => (0xF0FF, 0x4007)
  | .ldcLGbr _ => (0xF0FF, 0x4017)
  | .ldcLVbr _ => (0xF0FF, 0x4027)
  | .ldsMach _ => (0xF0FF, 0x400A)
  | .ldsMacl _ => (0xF0FF, 0x401A)
  | .ldsPr _ => (0xF0FF, 0x402A)
  | .ldsLMach _ => (0xF0FF, 0x4006)
  | .ldsLMacl _ => (0xF0FF, 0x4016)
  | .ldsLPr _ => (0xF0FF, 0x4026)
  | .stcSr _ => (0xF0FF, 0x0002)
  | .stcGbr _ => (0xF0FF, 0x0012)
  | .stcVbr _ => (0xF0FF, 0x0022)
  | .stcLSr _ => (0xF0FF, 0x4003)
  | .stcLGbr _ => (0xF0FF, 0x4013)
  | .stcLVbr _ => (0xF0FF, 0x4023)
  | .rte => (0xFFFF, 0x002B)
  | .stsMach _ => (0xF0FF, 0x000A)
  | .stsMacl _ => (0xF0FF, 0x001A)
  | .stsPr _ => (0xF0FF, 0x002A)
  | .stsLMach _ => (0xF0FF, 0x4002)
  | .stsLMacl _ => (0xF0FF, 0x4012)
  | .stsLPr _ => (0xF0FF, 0x4022)
  | .sleep => (0xFFFF, 0x001B)
  | .trapa _ => (0xFF00, 0xC300)

/-- The word of the instruction, under the mask of its row, is the match of its row. -/
def Laws.EncodeMatches.Statement (i : Instr) : Prop := encode i &&& (Laws.tableRow i).1 = (Laws.tableRow i).2

theorem Laws.EncodeMatches.movImm (imm : BitVec 8) (n : Reg) : Laws.EncodeMatches.Statement (.movImm imm n) := by
  refine (word4_and _ _ _ _ 0xF 0x0 0x0 0x0).trans ?_
  simp [word4]
  rfl

theorem Laws.EncodeMatches.movWPc (disp : Nat) (n : Reg) : Laws.EncodeMatches.Statement (.movWPc disp n) := by
  refine (word4_and _ _ _ _ 0xF 0x0 0x0 0x0).trans ?_
  simp [word4]
  rfl

theorem Laws.EncodeMatches.movLPc (disp : Nat) (n : Reg) : Laws.EncodeMatches.Statement (.movLPc disp n) := by
  refine (word4_and _ _ _ _ 0xF 0x0 0x0 0x0).trans ?_
  simp [word4]
  rfl

theorem Laws.EncodeMatches.mov (m : Reg) (n : Reg) : Laws.EncodeMatches.Statement (.mov m n) := by
  refine (word4_and _ _ _ _ 0xF 0x0 0x0 0xF).trans ?_
  simp [word4]
  rfl

theorem Laws.EncodeMatches.movBStore (m : Reg) (n : Reg) : Laws.EncodeMatches.Statement (.movBStore m n) := by
  refine (word4_and _ _ _ _ 0xF 0x0 0x0 0xF).trans ?_
  simp [word4]
  rfl

theorem Laws.EncodeMatches.movWStore (m : Reg) (n : Reg) : Laws.EncodeMatches.Statement (.movWStore m n) := by
  refine (word4_and _ _ _ _ 0xF 0x0 0x0 0xF).trans ?_
  simp [word4]
  rfl

theorem Laws.EncodeMatches.movLStore (m : Reg) (n : Reg) : Laws.EncodeMatches.Statement (.movLStore m n) := by
  refine (word4_and _ _ _ _ 0xF 0x0 0x0 0xF).trans ?_
  simp [word4]
  rfl

theorem Laws.EncodeMatches.movBLoad (m : Reg) (n : Reg) : Laws.EncodeMatches.Statement (.movBLoad m n) := by
  refine (word4_and _ _ _ _ 0xF 0x0 0x0 0xF).trans ?_
  simp [word4]
  rfl

theorem Laws.EncodeMatches.movWLoad (m : Reg) (n : Reg) : Laws.EncodeMatches.Statement (.movWLoad m n) := by
  refine (word4_and _ _ _ _ 0xF 0x0 0x0 0xF).trans ?_
  simp [word4]
  rfl

theorem Laws.EncodeMatches.movLLoad (m : Reg) (n : Reg) : Laws.EncodeMatches.Statement (.movLLoad m n) := by
  refine (word4_and _ _ _ _ 0xF 0x0 0x0 0xF).trans ?_
  simp [word4]
  rfl

theorem Laws.EncodeMatches.movBStoreDec (m : Reg) (n : Reg) : Laws.EncodeMatches.Statement (.movBStoreDec m n) := by
  refine (word4_and _ _ _ _ 0xF 0x0 0x0 0xF).trans ?_
  simp [word4]
  rfl

theorem Laws.EncodeMatches.movWStoreDec (m : Reg) (n : Reg) : Laws.EncodeMatches.Statement (.movWStoreDec m n) := by
  refine (word4_and _ _ _ _ 0xF 0x0 0x0 0xF).trans ?_
  simp [word4]
  rfl

theorem Laws.EncodeMatches.movLStoreDec (m : Reg) (n : Reg) : Laws.EncodeMatches.Statement (.movLStoreDec m n) := by
  refine (word4_and _ _ _ _ 0xF 0x0 0x0 0xF).trans ?_
  simp [word4]
  rfl

theorem Laws.EncodeMatches.movBLoadInc (m : Reg) (n : Reg) : Laws.EncodeMatches.Statement (.movBLoadInc m n) := by
  refine (word4_and _ _ _ _ 0xF 0x0 0x0 0xF).trans ?_
  simp [word4]
  rfl

theorem Laws.EncodeMatches.movWLoadInc (m : Reg) (n : Reg) : Laws.EncodeMatches.Statement (.movWLoadInc m n) := by
  refine (word4_and _ _ _ _ 0xF 0x0 0x0 0xF).trans ?_
  simp [word4]
  rfl

theorem Laws.EncodeMatches.movLLoadInc (m : Reg) (n : Reg) : Laws.EncodeMatches.Statement (.movLLoadInc m n) := by
  refine (word4_and _ _ _ _ 0xF 0x0 0x0 0xF).trans ?_
  simp [word4]
  rfl

theorem Laws.EncodeMatches.movBStoreDisp (disp : Nat) (n : Reg) : Laws.EncodeMatches.Statement (.movBStoreDisp disp n) := by
  refine (word4_and _ _ _ _ 0xF 0xF 0x0 0x0).trans ?_
  simp [word4]
  rfl

theorem Laws.EncodeMatches.movWStoreDisp (disp : Nat) (n : Reg) : Laws.EncodeMatches.Statement (.movWStoreDisp disp n) := by
  refine (word4_and _ _ _ _ 0xF 0xF 0x0 0x0).trans ?_
  simp [word4]
  rfl

theorem Laws.EncodeMatches.movLStoreDisp (m : Reg) (disp : Nat) (n : Reg) : Laws.EncodeMatches.Statement (.movLStoreDisp m disp n) := by
  refine (word4_and _ _ _ _ 0xF 0x0 0x0 0x0).trans ?_
  simp [word4]
  rfl

theorem Laws.EncodeMatches.movBLoadDisp (disp : Nat) (m : Reg) : Laws.EncodeMatches.Statement (.movBLoadDisp disp m) := by
  refine (word4_and _ _ _ _ 0xF 0xF 0x0 0x0).trans ?_
  simp [word4]
  rfl

theorem Laws.EncodeMatches.movWLoadDisp (disp : Nat) (m : Reg) : Laws.EncodeMatches.Statement (.movWLoadDisp disp m) := by
  refine (word4_and _ _ _ _ 0xF 0xF 0x0 0x0).trans ?_
  simp [word4]
  rfl

theorem Laws.EncodeMatches.movLLoadDisp (disp : Nat) (m : Reg) (n : Reg) : Laws.EncodeMatches.Statement (.movLLoadDisp disp m n) := by
  refine (word4_and _ _ _ _ 0xF 0x0 0x0 0x0).trans ?_
  simp [word4]
  rfl

theorem Laws.EncodeMatches.movBStoreIdx (m : Reg) (n : Reg) : Laws.EncodeMatches.Statement (.movBStoreIdx m n) := by
  refine (word4_and _ _ _ _ 0xF 0x0 0x0 0xF).trans ?_
  simp [word4]
  rfl

theorem Laws.EncodeMatches.movWStoreIdx (m : Reg) (n : Reg) : Laws.EncodeMatches.Statement (.movWStoreIdx m n) := by
  refine (word4_and _ _ _ _ 0xF 0x0 0x0 0xF).trans ?_
  simp [word4]
  rfl

theorem Laws.EncodeMatches.movLStoreIdx (m : Reg) (n : Reg) : Laws.EncodeMatches.Statement (.movLStoreIdx m n) := by
  refine (word4_and _ _ _ _ 0xF 0x0 0x0 0xF).trans ?_
  simp [word4]
  rfl

theorem Laws.EncodeMatches.movBLoadIdx (m : Reg) (n : Reg) : Laws.EncodeMatches.Statement (.movBLoadIdx m n) := by
  refine (word4_and _ _ _ _ 0xF 0x0 0x0 0xF).trans ?_
  simp [word4]
  rfl

theorem Laws.EncodeMatches.movWLoadIdx (m : Reg) (n : Reg) : Laws.EncodeMatches.Statement (.movWLoadIdx m n) := by
  refine (word4_and _ _ _ _ 0xF 0x0 0x0 0xF).trans ?_
  simp [word4]
  rfl

theorem Laws.EncodeMatches.movLLoadIdx (m : Reg) (n : Reg) : Laws.EncodeMatches.Statement (.movLLoadIdx m n) := by
  refine (word4_and _ _ _ _ 0xF 0x0 0x0 0xF).trans ?_
  simp [word4]
  rfl

theorem Laws.EncodeMatches.movBStoreGbr (disp : Nat) : Laws.EncodeMatches.Statement (.movBStoreGbr disp) := by
  refine (word4_and _ _ _ _ 0xF 0xF 0x0 0x0).trans ?_
  simp [word4]
  rfl

theorem Laws.EncodeMatches.movWStoreGbr (disp : Nat) : Laws.EncodeMatches.Statement (.movWStoreGbr disp) := by
  refine (word4_and _ _ _ _ 0xF 0xF 0x0 0x0).trans ?_
  simp [word4]
  rfl

theorem Laws.EncodeMatches.movLStoreGbr (disp : Nat) : Laws.EncodeMatches.Statement (.movLStoreGbr disp) := by
  refine (word4_and _ _ _ _ 0xF 0xF 0x0 0x0).trans ?_
  simp [word4]
  rfl

theorem Laws.EncodeMatches.movBLoadGbr (disp : Nat) : Laws.EncodeMatches.Statement (.movBLoadGbr disp) := by
  refine (word4_and _ _ _ _ 0xF 0xF 0x0 0x0).trans ?_
  simp [word4]
  rfl

theorem Laws.EncodeMatches.movWLoadGbr (disp : Nat) : Laws.EncodeMatches.Statement (.movWLoadGbr disp) := by
  refine (word4_and _ _ _ _ 0xF 0xF 0x0 0x0).trans ?_
  simp [word4]
  rfl

theorem Laws.EncodeMatches.movLLoadGbr (disp : Nat) : Laws.EncodeMatches.Statement (.movLLoadGbr disp) := by
  refine (word4_and _ _ _ _ 0xF 0xF 0x0 0x0).trans ?_
  simp [word4]
  rfl

theorem Laws.EncodeMatches.mova (disp : Nat) : Laws.EncodeMatches.Statement (.mova disp) := by
  refine (word4_and _ _ _ _ 0xF 0xF 0x0 0x0).trans ?_
  simp [word4]
  rfl

theorem Laws.EncodeMatches.movt (n : Reg) : Laws.EncodeMatches.Statement (.movt n) := by
  refine (word4_and _ _ _ _ 0xF 0x0 0xF 0xF).trans ?_
  simp [word4]
  rfl

theorem Laws.EncodeMatches.swapB (m : Reg) (n : Reg) : Laws.EncodeMatches.Statement (.swapB m n) := by
  refine (word4_and _ _ _ _ 0xF 0x0 0x0 0xF).trans ?_
  simp [word4]
  rfl

theorem Laws.EncodeMatches.swapW (m : Reg) (n : Reg) : Laws.EncodeMatches.Statement (.swapW m n) := by
  refine (word4_and _ _ _ _ 0xF 0x0 0x0 0xF).trans ?_
  simp [word4]
  rfl

theorem Laws.EncodeMatches.xtrct (m : Reg) (n : Reg) : Laws.EncodeMatches.Statement (.xtrct m n) := by
  refine (word4_and _ _ _ _ 0xF 0x0 0x0 0xF).trans ?_
  simp [word4]
  rfl

theorem Laws.EncodeMatches.add (m : Reg) (n : Reg) : Laws.EncodeMatches.Statement (.add m n) := by
  refine (word4_and _ _ _ _ 0xF 0x0 0x0 0xF).trans ?_
  simp [word4]
  rfl

theorem Laws.EncodeMatches.addImm (imm : BitVec 8) (n : Reg) : Laws.EncodeMatches.Statement (.addImm imm n) := by
  refine (word4_and _ _ _ _ 0xF 0x0 0x0 0x0).trans ?_
  simp [word4]
  rfl

theorem Laws.EncodeMatches.addc (m : Reg) (n : Reg) : Laws.EncodeMatches.Statement (.addc m n) := by
  refine (word4_and _ _ _ _ 0xF 0x0 0x0 0xF).trans ?_
  simp [word4]
  rfl

theorem Laws.EncodeMatches.addv (m : Reg) (n : Reg) : Laws.EncodeMatches.Statement (.addv m n) := by
  refine (word4_and _ _ _ _ 0xF 0x0 0x0 0xF).trans ?_
  simp [word4]
  rfl

theorem Laws.EncodeMatches.cmpEqImm (imm : BitVec 8) : Laws.EncodeMatches.Statement (.cmpEqImm imm) := by
  refine (word4_and _ _ _ _ 0xF 0xF 0x0 0x0).trans ?_
  simp [word4]
  rfl

theorem Laws.EncodeMatches.cmpEq (m : Reg) (n : Reg) : Laws.EncodeMatches.Statement (.cmpEq m n) := by
  refine (word4_and _ _ _ _ 0xF 0x0 0x0 0xF).trans ?_
  simp [word4]
  rfl

theorem Laws.EncodeMatches.cmpHs (m : Reg) (n : Reg) : Laws.EncodeMatches.Statement (.cmpHs m n) := by
  refine (word4_and _ _ _ _ 0xF 0x0 0x0 0xF).trans ?_
  simp [word4]
  rfl

theorem Laws.EncodeMatches.cmpGe (m : Reg) (n : Reg) : Laws.EncodeMatches.Statement (.cmpGe m n) := by
  refine (word4_and _ _ _ _ 0xF 0x0 0x0 0xF).trans ?_
  simp [word4]
  rfl

theorem Laws.EncodeMatches.cmpHi (m : Reg) (n : Reg) : Laws.EncodeMatches.Statement (.cmpHi m n) := by
  refine (word4_and _ _ _ _ 0xF 0x0 0x0 0xF).trans ?_
  simp [word4]
  rfl

theorem Laws.EncodeMatches.cmpGt (m : Reg) (n : Reg) : Laws.EncodeMatches.Statement (.cmpGt m n) := by
  refine (word4_and _ _ _ _ 0xF 0x0 0x0 0xF).trans ?_
  simp [word4]
  rfl

theorem Laws.EncodeMatches.cmpPl (n : Reg) : Laws.EncodeMatches.Statement (.cmpPl n) := by
  refine (word4_and _ _ _ _ 0xF 0x0 0xF 0xF).trans ?_
  simp [word4]
  rfl

theorem Laws.EncodeMatches.cmpPz (n : Reg) : Laws.EncodeMatches.Statement (.cmpPz n) := by
  refine (word4_and _ _ _ _ 0xF 0x0 0xF 0xF).trans ?_
  simp [word4]
  rfl

theorem Laws.EncodeMatches.cmpStr (m : Reg) (n : Reg) : Laws.EncodeMatches.Statement (.cmpStr m n) := by
  refine (word4_and _ _ _ _ 0xF 0x0 0x0 0xF).trans ?_
  simp [word4]
  rfl

theorem Laws.EncodeMatches.div1 (m : Reg) (n : Reg) : Laws.EncodeMatches.Statement (.div1 m n) := by
  refine (word4_and _ _ _ _ 0xF 0x0 0x0 0xF).trans ?_
  simp [word4]
  rfl

theorem Laws.EncodeMatches.div0s (m : Reg) (n : Reg) : Laws.EncodeMatches.Statement (.div0s m n) := by
  refine (word4_and _ _ _ _ 0xF 0x0 0x0 0xF).trans ?_
  simp [word4]
  rfl

theorem Laws.EncodeMatches.div0u : Laws.EncodeMatches.Statement .div0u := by
  refine (word4_and _ _ _ _ 0xF 0xF 0xF 0xF).trans ?_
  simp [word4]
  rfl

theorem Laws.EncodeMatches.dmulsL (m : Reg) (n : Reg) : Laws.EncodeMatches.Statement (.dmulsL m n) := by
  refine (word4_and _ _ _ _ 0xF 0x0 0x0 0xF).trans ?_
  simp [word4]
  rfl

theorem Laws.EncodeMatches.dmuluL (m : Reg) (n : Reg) : Laws.EncodeMatches.Statement (.dmuluL m n) := by
  refine (word4_and _ _ _ _ 0xF 0x0 0x0 0xF).trans ?_
  simp [word4]
  rfl

theorem Laws.EncodeMatches.dt (n : Reg) : Laws.EncodeMatches.Statement (.dt n) := by
  refine (word4_and _ _ _ _ 0xF 0x0 0xF 0xF).trans ?_
  simp [word4]
  rfl

theorem Laws.EncodeMatches.extsB (m : Reg) (n : Reg) : Laws.EncodeMatches.Statement (.extsB m n) := by
  refine (word4_and _ _ _ _ 0xF 0x0 0x0 0xF).trans ?_
  simp [word4]
  rfl

theorem Laws.EncodeMatches.extsW (m : Reg) (n : Reg) : Laws.EncodeMatches.Statement (.extsW m n) := by
  refine (word4_and _ _ _ _ 0xF 0x0 0x0 0xF).trans ?_
  simp [word4]
  rfl

theorem Laws.EncodeMatches.extuB (m : Reg) (n : Reg) : Laws.EncodeMatches.Statement (.extuB m n) := by
  refine (word4_and _ _ _ _ 0xF 0x0 0x0 0xF).trans ?_
  simp [word4]
  rfl

theorem Laws.EncodeMatches.extuW (m : Reg) (n : Reg) : Laws.EncodeMatches.Statement (.extuW m n) := by
  refine (word4_and _ _ _ _ 0xF 0x0 0x0 0xF).trans ?_
  simp [word4]
  rfl

theorem Laws.EncodeMatches.macL (m : Reg) (n : Reg) : Laws.EncodeMatches.Statement (.macL m n) := by
  refine (word4_and _ _ _ _ 0xF 0x0 0x0 0xF).trans ?_
  simp [word4]
  rfl

theorem Laws.EncodeMatches.macW (m : Reg) (n : Reg) : Laws.EncodeMatches.Statement (.macW m n) := by
  refine (word4_and _ _ _ _ 0xF 0x0 0x0 0xF).trans ?_
  simp [word4]
  rfl

theorem Laws.EncodeMatches.mulL (m : Reg) (n : Reg) : Laws.EncodeMatches.Statement (.mulL m n) := by
  refine (word4_and _ _ _ _ 0xF 0x0 0x0 0xF).trans ?_
  simp [word4]
  rfl

theorem Laws.EncodeMatches.mulsW (m : Reg) (n : Reg) : Laws.EncodeMatches.Statement (.mulsW m n) := by
  refine (word4_and _ _ _ _ 0xF 0x0 0x0 0xF).trans ?_
  simp [word4]
  rfl

theorem Laws.EncodeMatches.muluW (m : Reg) (n : Reg) : Laws.EncodeMatches.Statement (.muluW m n) := by
  refine (word4_and _ _ _ _ 0xF 0x0 0x0 0xF).trans ?_
  simp [word4]
  rfl

theorem Laws.EncodeMatches.neg (m : Reg) (n : Reg) : Laws.EncodeMatches.Statement (.neg m n) := by
  refine (word4_and _ _ _ _ 0xF 0x0 0x0 0xF).trans ?_
  simp [word4]
  rfl

theorem Laws.EncodeMatches.negc (m : Reg) (n : Reg) : Laws.EncodeMatches.Statement (.negc m n) := by
  refine (word4_and _ _ _ _ 0xF 0x0 0x0 0xF).trans ?_
  simp [word4]
  rfl

theorem Laws.EncodeMatches.sub (m : Reg) (n : Reg) : Laws.EncodeMatches.Statement (.sub m n) := by
  refine (word4_and _ _ _ _ 0xF 0x0 0x0 0xF).trans ?_
  simp [word4]
  rfl

theorem Laws.EncodeMatches.subc (m : Reg) (n : Reg) : Laws.EncodeMatches.Statement (.subc m n) := by
  refine (word4_and _ _ _ _ 0xF 0x0 0x0 0xF).trans ?_
  simp [word4]
  rfl

theorem Laws.EncodeMatches.subv (m : Reg) (n : Reg) : Laws.EncodeMatches.Statement (.subv m n) := by
  refine (word4_and _ _ _ _ 0xF 0x0 0x0 0xF).trans ?_
  simp [word4]
  rfl

theorem Laws.EncodeMatches.andReg (m : Reg) (n : Reg) : Laws.EncodeMatches.Statement (.andReg m n) := by
  refine (word4_and _ _ _ _ 0xF 0x0 0x0 0xF).trans ?_
  simp [word4]
  rfl

theorem Laws.EncodeMatches.andImm (imm : BitVec 8) : Laws.EncodeMatches.Statement (.andImm imm) := by
  refine (word4_and _ _ _ _ 0xF 0xF 0x0 0x0).trans ?_
  simp [word4]
  rfl

theorem Laws.EncodeMatches.andB (imm : BitVec 8) : Laws.EncodeMatches.Statement (.andB imm) := by
  refine (word4_and _ _ _ _ 0xF 0xF 0x0 0x0).trans ?_
  simp [word4]
  rfl

theorem Laws.EncodeMatches.notReg (m : Reg) (n : Reg) : Laws.EncodeMatches.Statement (.notReg m n) := by
  refine (word4_and _ _ _ _ 0xF 0x0 0x0 0xF).trans ?_
  simp [word4]
  rfl

theorem Laws.EncodeMatches.orReg (m : Reg) (n : Reg) : Laws.EncodeMatches.Statement (.orReg m n) := by
  refine (word4_and _ _ _ _ 0xF 0x0 0x0 0xF).trans ?_
  simp [word4]
  rfl

theorem Laws.EncodeMatches.orImm (imm : BitVec 8) : Laws.EncodeMatches.Statement (.orImm imm) := by
  refine (word4_and _ _ _ _ 0xF 0xF 0x0 0x0).trans ?_
  simp [word4]
  rfl

theorem Laws.EncodeMatches.orB (imm : BitVec 8) : Laws.EncodeMatches.Statement (.orB imm) := by
  refine (word4_and _ _ _ _ 0xF 0xF 0x0 0x0).trans ?_
  simp [word4]
  rfl

theorem Laws.EncodeMatches.tasB (n : Reg) : Laws.EncodeMatches.Statement (.tasB n) := by
  refine (word4_and _ _ _ _ 0xF 0x0 0xF 0xF).trans ?_
  simp [word4]
  rfl

theorem Laws.EncodeMatches.tst (m : Reg) (n : Reg) : Laws.EncodeMatches.Statement (.tst m n) := by
  refine (word4_and _ _ _ _ 0xF 0x0 0x0 0xF).trans ?_
  simp [word4]
  rfl

theorem Laws.EncodeMatches.tstImm (imm : BitVec 8) : Laws.EncodeMatches.Statement (.tstImm imm) := by
  refine (word4_and _ _ _ _ 0xF 0xF 0x0 0x0).trans ?_
  simp [word4]
  rfl

theorem Laws.EncodeMatches.tstB (imm : BitVec 8) : Laws.EncodeMatches.Statement (.tstB imm) := by
  refine (word4_and _ _ _ _ 0xF 0xF 0x0 0x0).trans ?_
  simp [word4]
  rfl

theorem Laws.EncodeMatches.xorReg (m : Reg) (n : Reg) : Laws.EncodeMatches.Statement (.xorReg m n) := by
  refine (word4_and _ _ _ _ 0xF 0x0 0x0 0xF).trans ?_
  simp [word4]
  rfl

theorem Laws.EncodeMatches.xorImm (imm : BitVec 8) : Laws.EncodeMatches.Statement (.xorImm imm) := by
  refine (word4_and _ _ _ _ 0xF 0xF 0x0 0x0).trans ?_
  simp [word4]
  rfl

theorem Laws.EncodeMatches.xorB (imm : BitVec 8) : Laws.EncodeMatches.Statement (.xorB imm) := by
  refine (word4_and _ _ _ _ 0xF 0xF 0x0 0x0).trans ?_
  simp [word4]
  rfl

theorem Laws.EncodeMatches.rotl (n : Reg) : Laws.EncodeMatches.Statement (.rotl n) := by
  refine (word4_and _ _ _ _ 0xF 0x0 0xF 0xF).trans ?_
  simp [word4]
  rfl

theorem Laws.EncodeMatches.rotr (n : Reg) : Laws.EncodeMatches.Statement (.rotr n) := by
  refine (word4_and _ _ _ _ 0xF 0x0 0xF 0xF).trans ?_
  simp [word4]
  rfl

theorem Laws.EncodeMatches.rotcl (n : Reg) : Laws.EncodeMatches.Statement (.rotcl n) := by
  refine (word4_and _ _ _ _ 0xF 0x0 0xF 0xF).trans ?_
  simp [word4]
  rfl

theorem Laws.EncodeMatches.rotcr (n : Reg) : Laws.EncodeMatches.Statement (.rotcr n) := by
  refine (word4_and _ _ _ _ 0xF 0x0 0xF 0xF).trans ?_
  simp [word4]
  rfl

theorem Laws.EncodeMatches.shal (n : Reg) : Laws.EncodeMatches.Statement (.shal n) := by
  refine (word4_and _ _ _ _ 0xF 0x0 0xF 0xF).trans ?_
  simp [word4]
  rfl

theorem Laws.EncodeMatches.shar (n : Reg) : Laws.EncodeMatches.Statement (.shar n) := by
  refine (word4_and _ _ _ _ 0xF 0x0 0xF 0xF).trans ?_
  simp [word4]
  rfl

theorem Laws.EncodeMatches.shll (n : Reg) : Laws.EncodeMatches.Statement (.shll n) := by
  refine (word4_and _ _ _ _ 0xF 0x0 0xF 0xF).trans ?_
  simp [word4]
  rfl

theorem Laws.EncodeMatches.shlr (n : Reg) : Laws.EncodeMatches.Statement (.shlr n) := by
  refine (word4_and _ _ _ _ 0xF 0x0 0xF 0xF).trans ?_
  simp [word4]
  rfl

theorem Laws.EncodeMatches.shll2 (n : Reg) : Laws.EncodeMatches.Statement (.shll2 n) := by
  refine (word4_and _ _ _ _ 0xF 0x0 0xF 0xF).trans ?_
  simp [word4]
  rfl

theorem Laws.EncodeMatches.shlr2 (n : Reg) : Laws.EncodeMatches.Statement (.shlr2 n) := by
  refine (word4_and _ _ _ _ 0xF 0x0 0xF 0xF).trans ?_
  simp [word4]
  rfl

theorem Laws.EncodeMatches.shll8 (n : Reg) : Laws.EncodeMatches.Statement (.shll8 n) := by
  refine (word4_and _ _ _ _ 0xF 0x0 0xF 0xF).trans ?_
  simp [word4]
  rfl

theorem Laws.EncodeMatches.shlr8 (n : Reg) : Laws.EncodeMatches.Statement (.shlr8 n) := by
  refine (word4_and _ _ _ _ 0xF 0x0 0xF 0xF).trans ?_
  simp [word4]
  rfl

theorem Laws.EncodeMatches.shll16 (n : Reg) : Laws.EncodeMatches.Statement (.shll16 n) := by
  refine (word4_and _ _ _ _ 0xF 0x0 0xF 0xF).trans ?_
  simp [word4]
  rfl

theorem Laws.EncodeMatches.shlr16 (n : Reg) : Laws.EncodeMatches.Statement (.shlr16 n) := by
  refine (word4_and _ _ _ _ 0xF 0x0 0xF 0xF).trans ?_
  simp [word4]
  rfl

theorem Laws.EncodeMatches.bf (disp : BitVec 8) : Laws.EncodeMatches.Statement (.bf disp) := by
  refine (word4_and _ _ _ _ 0xF 0xF 0x0 0x0).trans ?_
  simp [word4]
  rfl

theorem Laws.EncodeMatches.bfS (disp : BitVec 8) : Laws.EncodeMatches.Statement (.bfS disp) := by
  refine (word4_and _ _ _ _ 0xF 0xF 0x0 0x0).trans ?_
  simp [word4]
  rfl

theorem Laws.EncodeMatches.bt (disp : BitVec 8) : Laws.EncodeMatches.Statement (.bt disp) := by
  refine (word4_and _ _ _ _ 0xF 0xF 0x0 0x0).trans ?_
  simp [word4]
  rfl

theorem Laws.EncodeMatches.btS (disp : BitVec 8) : Laws.EncodeMatches.Statement (.btS disp) := by
  refine (word4_and _ _ _ _ 0xF 0xF 0x0 0x0).trans ?_
  simp [word4]
  rfl

theorem Laws.EncodeMatches.bra (disp : BitVec 12) : Laws.EncodeMatches.Statement (.bra disp) := by
  refine (word4_and _ _ _ _ 0xF 0x0 0x0 0x0).trans ?_
  simp [word4]
  rfl

theorem Laws.EncodeMatches.braf (m : Reg) : Laws.EncodeMatches.Statement (.braf m) := by
  refine (word4_and _ _ _ _ 0xF 0x0 0xF 0xF).trans ?_
  simp [word4]
  rfl

theorem Laws.EncodeMatches.bsr (disp : BitVec 12) : Laws.EncodeMatches.Statement (.bsr disp) := by
  refine (word4_and _ _ _ _ 0xF 0x0 0x0 0x0).trans ?_
  simp [word4]
  rfl

theorem Laws.EncodeMatches.bsrf (m : Reg) : Laws.EncodeMatches.Statement (.bsrf m) := by
  refine (word4_and _ _ _ _ 0xF 0x0 0xF 0xF).trans ?_
  simp [word4]
  rfl

theorem Laws.EncodeMatches.jmp (m : Reg) : Laws.EncodeMatches.Statement (.jmp m) := by
  refine (word4_and _ _ _ _ 0xF 0x0 0xF 0xF).trans ?_
  simp [word4]
  rfl

theorem Laws.EncodeMatches.jsr (m : Reg) : Laws.EncodeMatches.Statement (.jsr m) := by
  refine (word4_and _ _ _ _ 0xF 0x0 0xF 0xF).trans ?_
  simp [word4]
  rfl

theorem Laws.EncodeMatches.rts : Laws.EncodeMatches.Statement .rts := by
  refine (word4_and _ _ _ _ 0xF 0xF 0xF 0xF).trans ?_
  simp [word4]
  rfl

theorem Laws.EncodeMatches.clrt : Laws.EncodeMatches.Statement .clrt := by
  refine (word4_and _ _ _ _ 0xF 0xF 0xF 0xF).trans ?_
  simp [word4]
  rfl

theorem Laws.EncodeMatches.sett : Laws.EncodeMatches.Statement .sett := by
  refine (word4_and _ _ _ _ 0xF 0xF 0xF 0xF).trans ?_
  simp [word4]
  rfl

theorem Laws.EncodeMatches.clrmac : Laws.EncodeMatches.Statement .clrmac := by
  refine (word4_and _ _ _ _ 0xF 0xF 0xF 0xF).trans ?_
  simp [word4]
  rfl

theorem Laws.EncodeMatches.nop : Laws.EncodeMatches.Statement .nop := by
  refine (word4_and _ _ _ _ 0xF 0xF 0xF 0xF).trans ?_
  simp [word4]
  rfl

theorem Laws.EncodeMatches.ldcSr (m : Reg) : Laws.EncodeMatches.Statement (.ldcSr m) := by
  refine (word4_and _ _ _ _ 0xF 0x0 0xF 0xF).trans ?_
  simp [word4]
  rfl

theorem Laws.EncodeMatches.ldcGbr (m : Reg) : Laws.EncodeMatches.Statement (.ldcGbr m) := by
  refine (word4_and _ _ _ _ 0xF 0x0 0xF 0xF).trans ?_
  simp [word4]
  rfl

theorem Laws.EncodeMatches.ldcVbr (m : Reg) : Laws.EncodeMatches.Statement (.ldcVbr m) := by
  refine (word4_and _ _ _ _ 0xF 0x0 0xF 0xF).trans ?_
  simp [word4]
  rfl

theorem Laws.EncodeMatches.ldcLSr (m : Reg) : Laws.EncodeMatches.Statement (.ldcLSr m) := by
  refine (word4_and _ _ _ _ 0xF 0x0 0xF 0xF).trans ?_
  simp [word4]
  rfl

theorem Laws.EncodeMatches.ldcLGbr (m : Reg) : Laws.EncodeMatches.Statement (.ldcLGbr m) := by
  refine (word4_and _ _ _ _ 0xF 0x0 0xF 0xF).trans ?_
  simp [word4]
  rfl

theorem Laws.EncodeMatches.ldcLVbr (m : Reg) : Laws.EncodeMatches.Statement (.ldcLVbr m) := by
  refine (word4_and _ _ _ _ 0xF 0x0 0xF 0xF).trans ?_
  simp [word4]
  rfl

theorem Laws.EncodeMatches.ldsMach (m : Reg) : Laws.EncodeMatches.Statement (.ldsMach m) := by
  refine (word4_and _ _ _ _ 0xF 0x0 0xF 0xF).trans ?_
  simp [word4]
  rfl

theorem Laws.EncodeMatches.ldsMacl (m : Reg) : Laws.EncodeMatches.Statement (.ldsMacl m) := by
  refine (word4_and _ _ _ _ 0xF 0x0 0xF 0xF).trans ?_
  simp [word4]
  rfl

theorem Laws.EncodeMatches.ldsPr (m : Reg) : Laws.EncodeMatches.Statement (.ldsPr m) := by
  refine (word4_and _ _ _ _ 0xF 0x0 0xF 0xF).trans ?_
  simp [word4]
  rfl

theorem Laws.EncodeMatches.ldsLMach (m : Reg) : Laws.EncodeMatches.Statement (.ldsLMach m) := by
  refine (word4_and _ _ _ _ 0xF 0x0 0xF 0xF).trans ?_
  simp [word4]
  rfl

theorem Laws.EncodeMatches.ldsLMacl (m : Reg) : Laws.EncodeMatches.Statement (.ldsLMacl m) := by
  refine (word4_and _ _ _ _ 0xF 0x0 0xF 0xF).trans ?_
  simp [word4]
  rfl

theorem Laws.EncodeMatches.ldsLPr (m : Reg) : Laws.EncodeMatches.Statement (.ldsLPr m) := by
  refine (word4_and _ _ _ _ 0xF 0x0 0xF 0xF).trans ?_
  simp [word4]
  rfl

theorem Laws.EncodeMatches.stcSr (n : Reg) : Laws.EncodeMatches.Statement (.stcSr n) := by
  refine (word4_and _ _ _ _ 0xF 0x0 0xF 0xF).trans ?_
  simp [word4]
  rfl

theorem Laws.EncodeMatches.stcGbr (n : Reg) : Laws.EncodeMatches.Statement (.stcGbr n) := by
  refine (word4_and _ _ _ _ 0xF 0x0 0xF 0xF).trans ?_
  simp [word4]
  rfl

theorem Laws.EncodeMatches.stcVbr (n : Reg) : Laws.EncodeMatches.Statement (.stcVbr n) := by
  refine (word4_and _ _ _ _ 0xF 0x0 0xF 0xF).trans ?_
  simp [word4]
  rfl

theorem Laws.EncodeMatches.stcLSr (n : Reg) : Laws.EncodeMatches.Statement (.stcLSr n) := by
  refine (word4_and _ _ _ _ 0xF 0x0 0xF 0xF).trans ?_
  simp [word4]
  rfl

theorem Laws.EncodeMatches.stcLGbr (n : Reg) : Laws.EncodeMatches.Statement (.stcLGbr n) := by
  refine (word4_and _ _ _ _ 0xF 0x0 0xF 0xF).trans ?_
  simp [word4]
  rfl

theorem Laws.EncodeMatches.stcLVbr (n : Reg) : Laws.EncodeMatches.Statement (.stcLVbr n) := by
  refine (word4_and _ _ _ _ 0xF 0x0 0xF 0xF).trans ?_
  simp [word4]
  rfl

theorem Laws.EncodeMatches.rte : Laws.EncodeMatches.Statement .rte := by
  refine (word4_and _ _ _ _ 0xF 0xF 0xF 0xF).trans ?_
  simp [word4]
  rfl

theorem Laws.EncodeMatches.stsMach (n : Reg) : Laws.EncodeMatches.Statement (.stsMach n) := by
  refine (word4_and _ _ _ _ 0xF 0x0 0xF 0xF).trans ?_
  simp [word4]
  rfl

theorem Laws.EncodeMatches.stsMacl (n : Reg) : Laws.EncodeMatches.Statement (.stsMacl n) := by
  refine (word4_and _ _ _ _ 0xF 0x0 0xF 0xF).trans ?_
  simp [word4]
  rfl

theorem Laws.EncodeMatches.stsPr (n : Reg) : Laws.EncodeMatches.Statement (.stsPr n) := by
  refine (word4_and _ _ _ _ 0xF 0x0 0xF 0xF).trans ?_
  simp [word4]
  rfl

theorem Laws.EncodeMatches.stsLMach (n : Reg) : Laws.EncodeMatches.Statement (.stsLMach n) := by
  refine (word4_and _ _ _ _ 0xF 0x0 0xF 0xF).trans ?_
  simp [word4]
  rfl

theorem Laws.EncodeMatches.stsLMacl (n : Reg) : Laws.EncodeMatches.Statement (.stsLMacl n) := by
  refine (word4_and _ _ _ _ 0xF 0x0 0xF 0xF).trans ?_
  simp [word4]
  rfl

theorem Laws.EncodeMatches.stsLPr (n : Reg) : Laws.EncodeMatches.Statement (.stsLPr n) := by
  refine (word4_and _ _ _ _ 0xF 0x0 0xF 0xF).trans ?_
  simp [word4]
  rfl

theorem Laws.EncodeMatches.sleep : Laws.EncodeMatches.Statement .sleep := by
  refine (word4_and _ _ _ _ 0xF 0xF 0xF 0xF).trans ?_
  simp [word4]
  rfl

theorem Laws.EncodeMatches.trapa (imm : BitVec 8) : Laws.EncodeMatches.Statement (.trapa imm) := by
  refine (word4_and _ _ _ _ 0xF 0xF 0x0 0x0).trans ?_
  simp [word4]
  rfl

end Sys2Proof
end

