-- ==== Sys2Proof/Laws/Step.lean ====
section
/-! SUPPORT. The step of the CPU: what a fetch changes, and what a boundary does where the UBC misses the instruction. -/

namespace Sys2Proof.Machine

/-- What a fetch leaves of the UBC: its settings, a break request that is held, and that no earlier setting applies. -/
structure FetchKeeps (p q : Ubc) : Prop where
  regs : q.regs = p.regs
  pending : q.live.pending = p.live.pending
  lag : p.lag = [] → q.lag = []

theorem FetchKeeps.refl (u : Ubc) : FetchKeeps u u := ⟨rfl, rfl, id⟩

theorem FetchKeeps.trans {p q r : Ubc} (a : FetchKeeps p q) (b : FetchKeeps q r) : FetchKeeps p r :=
  ⟨b.regs.trans a.regs, b.pending.trans a.pending, fun h => b.lag (a.lag h)⟩

/-- A fetch changes only the counter of free values, the BSC's write buffer and, unless it is quiet, the UBC. -/
def OnlyFetch (s t : State) : Prop :=
  ∃ u d b, t = { s with ubc := u, draws := d, bsc := { s.bsc with extWrite := b } } ∧ FetchKeeps s.ubc u ∧
    (s.ubcQuiet = true → u = s.ubc)

/-- A change of the counter of free values and the write buffer. -/
theorem onlyFetch_draws (s : State) (d : Nat) (b : Option ExtWrite) :
    OnlyFetch s { s with draws := d, bsc := { s.bsc with extWrite := b } } :=
  ⟨s.ubc, d, b, rfl, FetchKeeps.refl _, fun _ => rfl⟩

theorem OnlyFetch.refl (s : State) : OnlyFetch s s := onlyFetch_draws s s.draws s.bsc.extWrite

theorem OnlyFetch.trans {s t u : State} (a : OnlyFetch s t) (b : OnlyFetch t u) : OnlyFetch s u := by
  obtain ⟨u1, d1, b1, rfl, k1, h1⟩ := a
  obtain ⟨u2, d2, b2, rfl, k2, h2⟩ := b
  refine ⟨u2, d2, b2, rfl, k1.trans k2, fun h => ?_⟩
  have e := h1 h
  subst e
  exact h2 h

theorem drawBit_fetch (s : State) : OnlyFetch s s.drawBit.2 := onlyFetch_draws s (s.draws + 1) s.bsc.extWrite

theorem drawValue_fetch (s : State) (z : Size) : OnlyFetch s (s.drawValue z).2 :=
  onlyFetch_draws s (s.draws + 1) s.bsc.extWrite

theorem settleLag_ubc (l : List UbcView) (s : State) : (settleLag l s).2.ubc = s.ubc := by
  induction l generalizing s with
  | nil => rfl
  | cons r rest ih =>
    unfold settleLag
    dsimp only
    split
    · exact ih _
    · rfl

theorem ubcEffective_keeps (s : State) : FetchKeeps s.ubc (ubcEffective s).2.ubc := by
  unfold ubcEffective
  split
  · exact FetchKeeps.refl _
  · next r rest h =>
    dsimp only
    rw [settleLag_ubc]
    exact ⟨rfl, rfl, fun e => by rw [h] at e; cases e⟩

theorem ubcNote_keeps {f : UbcMatch → UbcMatch} (hf : ∀ m, (f m).pending = m.pending) (b : Bool) (s : State) :
    FetchKeeps s.ubc (ubcNote b f s).ubc := ⟨rfl, hf _, id⟩

theorem ubcCount_keeps (b : Bool) (s : State) : FetchKeeps s.ubc (ubcCount b s).ubc := by
  unfold ubcCount
  split
  · next l h => exact ⟨rfl, rfl, fun e => by rw [e] at h; cases h⟩
  · exact ubcNote_keeps (f := fun m => { m with betr := m.betr - 1 }) (fun _ => rfl) b s

theorem ubcMet_keeps (r : UbcRegs) (k i j a b : Bool) (s : State) : FetchKeeps s.ubc (ubcMet r k i j a b s).2.ubc := by
  unfold ubcMet
  dsimp only
  split
  · exact (ubcCount_keeps k s).trans ⟨rfl, rfl, id⟩
  · exact ⟨rfl, rfl, id⟩

theorem requestFetchBreak_keeps (s : State) : FetchKeeps s.ubc (requestFetchBreak s).ubc :=
  ubcNote_keeps (f := UbcMatch.holdBack (if s.drawBit.1 then 2 else 1)) (fun _ => rfl) true s.drawBit.2

/-- An I-bus fetch cycle passes the UBC. -/
theorem ubcObserve_keeps {c : BusCycle} (h : c.fetch = true) (s : State) : FetchKeeps s.ubc (ubcObserve c s).ubc := by
  unfold ubcObserve
  split
  · exact FetchKeeps.refl _
  · have hm (r : UbcRegs) (k i j a b : Bool) :
        FetchKeeps s.ubc (ubcMet r k i j a b (ubcEffective s).2.drawBit.2.drawBit.2).2.ubc :=
      (ubcEffective_keeps s).trans (ubcMet_keeps r k i j a b (ubcEffective s).2.drawBit.2.drawBit.2)
    dsimp only
    split
    · exact (hm _ _ _ _ _ _).trans (requestFetchBreak_keeps _)
    · exact hm _ _ _ _ _ _

theorem ubcObserve_quiet (c : BusCycle) {s : State} (h : s.ubcQuiet = true) : ubcObserve c s = s := by
  simp [ubcObserve, h]

theorem ubcObserve_fetch {c : BusCycle} (h : c.fetch = true) (s : State) : OnlyFetch s (ubcObserve c s) := by
  obtain ⟨u, d, e⟩ := ubcObserve_only c s
  refine ⟨u, d, s.bsc.extWrite, e, ?_, fun q => ?_⟩
  · have := ubcObserve_keeps h s
    rwa [e] at this
  · have := ubcObserve_quiet c q
    rw [e] at this
    exact congrArg State.ubc this

theorem flashRead_fetch (s : State) (z : Size) (a : Nat) : OnlyFetch s (flashRead s z a).2 := by
  have hp : OnlyFetch s (if 0 < s.windows.fmats then s.drawBit else (decide (s.flash.fmats = 0xAA), s)).2 := by
    split
    · exact drawBit_fetch s
    · exact OnlyFetch.refl s
  unfold flashRead
  generalize (if 0 < s.windows.fmats then s.drawBit else (decide (s.flash.fmats = 0xAA), s)) = p at hp
  dsimp only
  split
  · split
    · exact hp
    · exact hp.trans (drawValue_fetch _ _)
  · exact hp

theorem ramCellRead_fetch (f : Bool) (s : State) (z : Size) (a : Nat) :
    (ramCellRead f s z a).Lands (OnlyFetch s) := by
  have he : OnlyFetch s (ramEnabled s).2 := by
    unfold ramEnabled
    split
    · exact drawBit_fetch s
    · exact OnlyFetch.refl s
  unfold ramCellRead
  split
  · trivial
  · dsimp only
    split
    · exact he
    · split
      · trivial
      · exact he.trans (drawValue_fetch _ _)

theorem ramRead_fetch (f : Bool) (s : State) (z : Size) (a : Nat) : (ramRead f s z a).Lands (OnlyFetch s) := by
  unfold ramRead
  split
  · dsimp only
    split
    · split
      · trivial
      · exact ((drawBit_fetch s).trans (drawBit_fetch _)).trans (flashRead_fetch _ _ _)
    · exact (ramCellRead_fetch _ _ _ _).mono (fun t h => (drawBit_fetch s).trans h)
  · exact ramCellRead_fetch _ _ _ _

theorem romRead_fetch (f : Bool) (s : State) (z : Size) (a : Nat) : (romRead f s z a).Lands (OnlyFetch s) := by
  have hp : OnlyFetch s (showsRam s a).2 := by
    unfold showsRam
    split
    · exact drawBit_fetch s
    · exact OnlyFetch.refl s
  unfold romRead
  split
  · trivial
  · split
    · trivial
    · dsimp only
      split
      · exact (ramCellRead_fetch _ _ _ _).mono (fun t h => hp.trans h)
      · exact hp.trans (flashRead_fetch _ _ _)

theorem externalRead_fetch (c k : Bool) (s : State) (z : Size) (a : Nat) :
    (externalRead c k s z a).Lands (OnlyFetch s) := by
  unfold externalRead
  split
  · trivial
  · split
    · show OnlyFetch s _
      split
      · exact onlyFetch_draws s s.draws none
      · exact OnlyFetch.refl s
    · trivial

/-- What a fetch over the buses changes. -/
theorem busRead_fetch (m : Master) (s : State) (z : Size) (a : Word) : (busRead m true s z a).Lands (OnlyFetch s) := by
  unfold busRead
  split
  · exact OnlyFetch.refl s
  · split
    · exact OnlyFetch.refl s
    · trivial
    · exact OnlyFetch.refl s
    · exact romRead_fetch _ _ _ _
    · exact ramRead_fetch _ _ _ _
    · exact externalRead_fetch _ _ _ _ _
    · exact externalRead_fetch _ _ _ _ _

theorem staleChoice_fetch (l : List Stale) (a : Nat) (h : Half) (s : State) : OnlyFetch s (staleChoice l a h s).2 := by
  induction l generalizing h s with
  | nil => exact OnlyFetch.refl s
  | cons e rest ih =>
    unfold staleChoice
    split
    · exact (drawBit_fetch s).trans (ih _ _)
    · exact ih _ _

/-- What fetching an instruction word changes. -/
theorem fetchHalf_only (s : State) (a : Word) : (fetchHalf s a).Lands (OnlyFetch s) := by
  refine Access.Lands.bind (busRead_fetch .cpu s .word a) (fun t h => h) (fun v t h => ?_)
  show OnlyFetch s _
  split
  · exact (h.trans (staleChoice_fetch _ _ _ _)).trans (ubcObserve_fetch rfl _)
  · exact h.trans (staleChoice_fetch _ _ _ _)

theorem fetchHalf_ok {s u : State} {a : Word} {w : Half} (h : fetchHalf s a = .ok w u) : OnlyFetch s u := by
  have := fetchHalf_only s a
  rw [h] at this
  exact this

/-- Where the UBC misses, the instruction has no hit and the UBC is as it was. -/
theorem ubcFetchHits_misses {s : State} {a : Word} (h : s.ubcMisses a = true) :
    (ubcFetchHits a s).2 = s ∧ (ubcFetchHits a s).1.preA = false ∧ (ubcFetchHits a s).1.preB = false ∧
      (ubcFetchHits a s).1.postA = false ∧ (ubcFetchHits a s).1.postB = false := by
  unfold ubcFetchHits
  split
  · exact ⟨rfl, rfl, rfl, rfl, rfl⟩
  · next q =>
    have q : s.ubcQuiet = false ∧ bitOf a 0 = false := by simpa using q
    simp only [State.ubcMisses, q.1, q.2, Bool.false_or, Bool.and_eq_true, List.isEmpty_iff, Bool.not_eq_true'] at h
    simp [ubcEffective, h.1.1, h.1.2, h.2]

/-- Without a hit nothing is recorded before the instruction, nor after it. -/
theorem ubcPre_none {h : FetchHits} (a : h.preA = false) (b : h.preB = false) (s : State) : ubcPre h s = (false, s) := by
  simp [ubcPre, ubcFetchMet, a, b]

theorem latchPre_none {h : FetchHits} (a : h.preA = false) (b : h.preB = false) (s : State) : latchPre h s = s := by
  simp [latchPre, ubcPre_none a b]

theorem ubcPost_none {h : FetchHits} (a : h.postA = false) (b : h.postB = false) (s : State) : ubcPost h s = s := by
  simp [ubcPost, ubcFetchMet, a, b]

/-- What `ubcMisses` rests on: the settings, those that may still apply, and the UBC's clock. -/
theorem State.ubcMisses_congr {s t : State} (hr : t.ubc.regs = s.ubc.regs) (hl : t.ubc.lag = s.ubc.lag)
    (hp : t.power = s.power) (a : Word) : t.ubcMisses a = s.ubcMisses a := by
  simp [State.ubcMisses, State.ubcQuiet, State.ubcOn, hr, hl, hp]

/-- Where an instruction could be fetched, a fetch does not end the missing. -/
theorem OnlyFetch.misses {s t : State} (h : OnlyFetch s t) {a b : Word} (ha : s.ubcMisses a = true)
    (he : bitOf a 0 = false) (hb : s.ubcMisses b = true) : t.ubcMisses b = true := by
  obtain ⟨u, d, x, e, k, q⟩ := h
  have ht : t.ubc = u := by rw [e]
  have hp : t.power = s.power := by rw [e]
  by_cases hq : s.ubcQuiet = true
  · rw [State.ubcMisses_congr (by rw [ht, q hq]) (by rw [ht, q hq]) hp, hb]
  · simp only [State.ubcMisses, hq, he, Bool.false_or, Bool.and_eq_true, List.isEmpty_iff] at ha
    rw [State.ubcMisses_congr (by rw [ht, k.regs]) (by rw [ht, k.lag ha.1.1, ha.1.1]) hp, hb]

/-- From an odd address nothing is fetched. -/
theorem fetchHalf_odd {a : Word} (h : bitOf a 0 = true) (s : State) : fetchHalf s a = .addressError s := by
  have hm : misaligned .word a = true := by
    have : a.toNat % 2 = 1 := by simpa [bitOf, BitVec.getLsbD, Nat.testBit_zero] using h
    simp [misaligned, Size.bytes, this]
  simp [fetchHalf, busRead, hm, Access.bind]

/-- The state a boundary begins with has the settings of the UBC. -/
theorem State.atBoundary_misses (s : State) (a : Word) : s.atBoundary.ubcMisses a = s.ubcMisses a := by
  unfold State.atBoundary ubcBoundary
  split
  · rfl
  · dsimp only
    split
    · rfl
    · split <;> rfl

@[simp] theorem State.atBoundary_pc (s : State) : s.atBoundary.pc = s.pc := by
  unfold State.atBoundary ubcBoundary
  split
  · rfl
  · dsimp only
    split
    · rfl
    · split <;> rfl

/-- A boundary where the UBC misses the instruction and the next one: fetch and decode, the acceptance, the instruction
(rule R433). -/
theorem runBoundary_misses {s : State} (h1 : s.ubcMisses s.pc = true) (h2 : s.ubcMisses (s.pc + 2) = true) :
    runBoundary s.atCpuStep = fetchDecode ubcMark s.atBoundary (fun i u =>
      match acceptance u with
      | some (vec, newI, t) => enter vec t.pc newI t
      | none => mapNext tickWindows (exec i (ubcMark u))) := by
  have b1 : s.atBoundary.ubcMisses s.pc = true := (s.atBoundary_misses _).trans h1
  have b2 : s.atBoundary.ubcMisses (s.pc + 2) = true := (s.atBoundary_misses _).trans h2
  obtain ⟨e, preA, preB, postA, postB⟩ := ubcFetchHits_misses b1
  have hr : runBoundary s.atCpuStep =
      (let h := ubcFetchHits s.atBoundary.pc s.atBoundary
       let p := ubcPre h.1 h.2
       if p.1 && breakTakeable h.2 then enter 12 h.2.pc (some 15) p.2
       else fetchDecode (fun t => ubcMark (latchPre h.1 t)) h.2 (boundaryDecoded h.1)) := rfl
  rw [hr, s.atBoundary_pc]
  dsimp only
  rw [e, ubcPre_none preA preB]
  simp only [Bool.false_and, Bool.false_eq_true, if_false]
  unfold fetchDecode
  rw [s.atBoundary_pc]
  cases hf : fetchHalf s.atBoundary s.pc with
  | addressError u => simp only [latchPre_none preA preB]
  | stop f => rfl
  | ok w u =>
    dsimp only
    cases hd : decode w with
    | error d => cases d <;> simp only [latchPre_none preA preB]
    | ok i =>
      dsimp only
      have odd : bitOf s.pc 0 = false := by
        cases ho : bitOf s.pc 0 with
        | false => rfl
        | true => rw [fetchHalf_odd ho] at hf; cases hf
      have hu := fetchHalf_ok hf
      have upc : u.pc = s.pc := by
        obtain ⟨x, d, b, rfl, -, -⟩ := hu
        exact s.atBoundary_pc
      have m2 : u.ubcMisses (u.pc + 2) = true := by
        rw [upc]
        exact hu.misses b1 odd b2
      obtain ⟨e2, preA2, preB2, -, -⟩ := ubcFetchHits_misses m2
      have key (x : FetchHits × State) (hx : x.2 = u) (a : x.1.preA = false) (b : x.1.preB = false) :
          (ubcPre x.1 (latchPre (ubcFetchHits s.pc s.atBoundary).1 x.2)).1 = false ∧
            latchPre x.1 (latchPre (ubcFetchHits s.pc s.atBoundary).1 x.2) = u := by
        rw [latchPre_none preA preB, ubcPre_none a b, latchPre_none a b]
        exact ⟨rfl, hx⟩
      have hx : (if takesSlot i u then ubcFetchHits (u.pc + 2) u else (noHits u, u)).2 = u ∧
          (if takesSlot i u then ubcFetchHits (u.pc + 2) u else (noHits u, u)).1.preA = false ∧
          (if takesSlot i u then ubcFetchHits (u.pc + 2) u else (noHits u, u)).1.preB = false := by
        split
        · exact ⟨e2, preA2, preB2⟩
        · exact ⟨rfl, rfl, rfl⟩
      unfold boundaryDecoded
      dsimp only
      obtain ⟨k1, k2⟩ := key _ hx.1 hx.2.1 hx.2.2
      rw [k1, k2, hx.1]
      rcases acceptance u with _ | ⟨vec, newI, t⟩ <;>
        simp only [Bool.false_and, Bool.false_eq_true, if_false, runDecoded, ubcPost_none postA postB]

/-- A delay slot where the UBC misses the instruction: fetch and decode, and the instruction (rules R433, R437). -/
theorem runSlot_misses (d : DelaySlot) {s : State} (h : s.ubcMisses s.pc = true) :
    runSlot d s.atCpuStep =
      fetchDecode id s.atCpuStep (fun i u => mapNext tickWindows (exec i u)) := by
  unfold runSlot fetchDecode
  cases hf : fetchHalf s.atCpuStep s.atCpuStep.pc with
  | addressError u => rfl
  | stop f => rfl
  | ok w u =>
    dsimp only
    cases hd : decode w with
    | error e => cases e <;> rfl
    | ok i =>
      dsimp only
      have hf : fetchHalf s.atCpuStep s.pc = .ok w u := hf
      have odd : bitOf s.pc 0 = false := by
        cases ho : bitOf s.pc 0 with
        | false => rfl
        | true => rw [fetchHalf_odd ho] at hf; cases hf
      have hu := fetchHalf_ok hf
      have b : s.atCpuStep.ubcMisses s.pc = true := h
      have upc : u.pc = s.pc := by
        obtain ⟨x, g, y, rfl, -, -⟩ := hu
        rfl
      have m : u.ubcMisses u.pc = true := by
        rw [upc]
        exact hu.misses b odd b
      obtain ⟨e, preA, preB, postA, postB⟩ := ubcFetchHits_misses m
      simp only [runDecoded, e, latchPre_none preA preB, ubcPost_none postA postB]
      split <;> rfl

/-- What `cpuTurn` says, part by part. -/
theorem State.cpuTurn_iff {s : State} (h : s.cpuTurn = true) :
    modeRuns s.mode = true ∧ s.agenda = [] ∧ s.turn = .cpu ∧ s.alone = true := by
  simpa [State.cpuTurn, and_assoc, List.isEmpty_iff] using h

/-- What `cpuNext` says, part by part. -/
theorem State.cpuNext_iff {s : State} (h : s.cpuNext = true) :
    s.cpuTurn = true ∧ s.proc = .run ∧ s.bsc.released = false ∧ s.ubcMisses s.pc = true ∧
      s.ubcMisses (s.pc + 2) = true := by
  simpa [State.cpuNext, and_assoc] using h

/-- In a mode that runs, a step is the scheduler's. -/
theorem step_schedule {s : State} (h : modeRuns s.mode = true) : step s = schedule s := by
  unfold step
  cases hm : s.mode <;> simp_all [modeRuns]

/-- When it is its turn the CPU steps. -/
theorem step_cpu {s : State} (h : s.cpuTurn = true) : step s = cpuStep s.atCpuStep := by
  obtain ⟨h1, h2, h3, -⟩ := s.cpuTurn_iff h
  rw [step_schedule h1]
  simp [schedule, h2, h3, State.atCpuStep]

theorem State.atCpuStep_alone {s : State} (h : s.alone = true) : s.atCpuStep.alone = true := h

/-- With the bus its own, the CPU's step in program execution is the instruction's. -/
theorem step_run {s : State} (h : s.cpuTurn = true) (h2 : s.proc = .run) (h4 : s.bsc.released = false) :
    step s = mapNext settle (runInstruction s.atCpuStep) := by
  have ha := State.atCpuStep_alone (s.cpuTurn_iff h).2.2.2
  have hw : s.atCpuStep.fetchWaits = false := by
    simp [State.fetchWaits, State.dtcBlocks, (State.alone_iff ha).2.2.2]
  have hp : s.atCpuStep.proc = .run := h2
  have hr : s.atCpuStep.bsc.released = false := h4
  rw [step_cpu h]
  simp [cpuStep, clearRaces_alone ha, hp, hr, hw]

/-- Outside program execution and the reset sequence the CPU does nothing. -/
theorem step_idle {s : State} (h : s.cpuTurn = true) (hc : cpuStep s.atCpuStep = .next s.atCpuStep) :
    step s = .next s.atCpuStep := by
  rw [step_cpu h, hc]

/-- An event on the agenda is the step. -/
theorem step_event {s : State} {e : Event} {rest : List Event} (h1 : modeRuns s.mode = true)
    (h : s.agenda = e :: rest) : step s = applyEvent e { s with agenda := rest } := by
  rw [step_schedule h1]
  unfold schedule
  rw [h]

end Sys2Proof.Machine
end

