-- ==== Sys2Proof/Tests/Slice0.lean ====
section
/-! SUPPORT. Tests. The words of the decode tests are written out from the patterns of tables 2.11 to 2.16; the one-step
tests are the worked examples of the spec, one for each instruction (files 40 to 45, the line "Example" of each rule).
    -/

open Sys2Proof Sys2Proof.Machine

/-! ## Helpers -/

/-- The decoder reads the instruction from the word. -/
def reads (w : Half) (i : Instr) : Bool :=
  match decode w with
  | .ok j => decide (j = i)
  | .error _ => false

/-- Two instruction words at an address, the machine about to run the first with SR as given. -/
def prog (a : Nat) (w slot : Half) (sr : Word) : State :=
  { State.reset with proc := .run, pc := BitVec.ofNat 32 a, sr := sr,
                     mem := Memory.putList [] a (beBytes .long (w ++ slot)) }

/-- The check holds after one step. -/
def after (s : State) (p : State → Bool) : Bool :=
  match step s with
  | .next t => p t
  | .fault _ => false
  | .refused _ => false

/-- The check holds after two steps of the CPU: a delayed branch and its slot. -/
def afterSlot (s : State) (p : State → Bool) : Bool := after { s with agenda := [.cpu, .cpu] } (fun t => after t p)

/-- The step stops with the fault. -/
def stops (s : State) (f : Fault) : Bool :=
  match step s with
  | .next _ => false
  | .fault g => decide (g = f)
  | .refused _ => false

/-! ## Well-formed instructions -/

theorem test_wellFormed_disp4 :
    (Instr.movLLoadDisp 16 1 2).illFormed = some .disp4TooLarge ∧ (Instr.movLLoadDisp 15 1 2).wellFormed = true := by
  decide

theorem test_wellFormed_disp8 :
    (Instr.movWPc 256 1).illFormed = some .disp8TooLarge ∧ (Instr.movWPc 255 1).wellFormed = true := by
  decide

/-! ## Decoding -/

/-- Every instruction of the family from its word: the pattern of its table with m = 6, n = 9 and an immediate or
displacement of its field width. -/
theorem test_decode_dataTransfer :
    (reads 0xE9A5 (.movImm 0xA5 9) &&
    reads 0x99C3 (.movWPc 0xC3 9) &&
    reads 0xD9C3 (.movLPc 0xC3 9) &&
    reads 0x6963 (.mov 6 9) &&
    reads 0x2960 (.movBStore 6 9) &&
    reads 0x2961 (.movWStore 6 9) &&
    reads 0x2962 (.movLStore 6 9) &&
    reads 0x6960 (.movBLoad 6 9) &&
    reads 0x6961 (.movWLoad 6 9) &&
    reads 0x6962 (.movLLoad 6 9) &&
    reads 0x2964 (.movBStoreDec 6 9) &&
    reads 0x2965 (.movWStoreDec 6 9) &&
    reads 0x2966 (.movLStoreDec 6 9) &&
    reads 0x6964 (.movBLoadInc 6 9) &&
    reads 0x6965 (.movWLoadInc 6 9) &&
    reads 0x6966 (.movLLoadInc 6 9) &&
    reads 0x809B (.movBStoreDisp 0x0B 9) &&
    reads 0x819B (.movWStoreDisp 0x0B 9) &&
    reads 0x196B (.movLStoreDisp 6 0x0B 9) &&
    reads 0x846B (.movBLoadDisp 0x0B 6) &&
    reads 0x856B (.movWLoadDisp 0x0B 6) &&
    reads 0x596B (.movLLoadDisp 0x0B 6 9) &&
    reads 0x0964 (.movBStoreIdx 6 9) &&
    reads 0x0965 (.movWStoreIdx 6 9) &&
    reads 0x0966 (.movLStoreIdx 6 9) &&
    reads 0x096C (.movBLoadIdx 6 9) &&
    reads 0x096D (.movWLoadIdx 6 9) &&
    reads 0x096E (.movLLoadIdx 6 9) &&
    reads 0xC0C3 (.movBStoreGbr 0xC3) &&
    reads 0xC1C3 (.movWStoreGbr 0xC3) &&
    reads 0xC2C3 (.movLStoreGbr 0xC3) &&
    reads 0xC4C3 (.movBLoadGbr 0xC3) &&
    reads 0xC5C3 (.movWLoadGbr 0xC3) &&
    reads 0xC6C3 (.movLLoadGbr 0xC3) &&
    reads 0xC7C3 (.mova 0xC3) &&
    reads 0x0929 (.movt 9) &&
    reads 0x6968 (.swapB 6 9) &&
    reads 0x6969 (.swapW 6 9) &&
    reads 0x296D (.xtrct 6 9)) = true := by decide

/-- Every instruction of the family from its word: the pattern of its table with m = 6, n = 9 and an immediate or
displacement of its field width. -/
theorem test_decode_arithmetic :
    (reads 0x396C (.add 6 9) &&
    reads 0x79A5 (.addImm 0xA5 9) &&
    reads 0x396E (.addc 6 9) &&
    reads 0x396F (.addv 6 9) &&
    reads 0x88A5 (.cmpEqImm 0xA5) &&
    reads 0x3960 (.cmpEq 6 9) &&
    reads 0x3962 (.cmpHs 6 9) &&
    reads 0x3963 (.cmpGe 6 9) &&
    reads 0x3966 (.cmpHi 6 9) &&
    reads 0x3967 (.cmpGt 6 9) &&
    reads 0x4915 (.cmpPl 9) &&
    reads 0x4911 (.cmpPz 9) &&
    reads 0x296C (.cmpStr 6 9) &&
    reads 0x3964 (.div1 6 9) &&
    reads 0x2967 (.div0s 6 9) &&
    reads 0x0019 .div0u &&
    reads 0x396D (.dmulsL 6 9) &&
    reads 0x3965 (.dmuluL 6 9) &&
    reads 0x4910 (.dt 9) &&
    reads 0x696E (.extsB 6 9) &&
    reads 0x696F (.extsW 6 9) &&
    reads 0x696C (.extuB 6 9) &&
    reads 0x696D (.extuW 6 9) &&
    reads 0x096F (.macL 6 9) &&
    reads 0x496F (.macW 6 9) &&
    reads 0x0967 (.mulL 6 9) &&
    reads 0x296F (.mulsW 6 9) &&
    reads 0x296E (.muluW 6 9) &&
    reads 0x696B (.neg 6 9) &&
    reads 0x696A (.negc 6 9) &&
    reads 0x3968 (.sub 6 9) &&
    reads 0x396A (.subc 6 9) &&
    reads 0x396B (.subv 6 9)) = true := by decide

/-- Every instruction of the family from its word: the pattern of its table with m = 6, n = 9 and an immediate or
displacement of its field width. -/
theorem test_decode_logic :
    (reads 0x2969 (.andReg 6 9) &&
    reads 0xC9A5 (.andImm 0xA5) &&
    reads 0xCDA5 (.andB 0xA5) &&
    reads 0x6967 (.notReg 6 9) &&
    reads 0x296B (.orReg 6 9) &&
    reads 0xCBA5 (.orImm 0xA5) &&
    reads 0xCFA5 (.orB 0xA5) &&
    reads 0x491B (.tasB 9) &&
    reads 0x2968 (.tst 6 9) &&
    reads 0xC8A5 (.tstImm 0xA5) &&
    reads 0xCCA5 (.tstB 0xA5) &&
    reads 0x296A (.xorReg 6 9) &&
    reads 0xCAA5 (.xorImm 0xA5) &&
    reads 0xCEA5 (.xorB 0xA5)) = true := by decide

/-- Every instruction of the family from its word: the pattern of its table with m = 6, n = 9 and an immediate or
displacement of its field width. -/
theorem test_decode_shift :
    (reads 0x4904 (.rotl 9) &&
    reads 0x4905 (.rotr 9) &&
    reads 0x4924 (.rotcl 9) &&
    reads 0x4925 (.rotcr 9) &&
    reads 0x4920 (.shal 9) &&
    reads 0x4921 (.shar 9) &&
    reads 0x4900 (.shll 9) &&
    reads 0x4901 (.shlr 9) &&
    reads 0x4908 (.shll2 9) &&
    reads 0x4909 (.shlr2 9) &&
    reads 0x4918 (.shll8 9) &&
    reads 0x4919 (.shlr8 9) &&
    reads 0x4928 (.shll16 9) &&
    reads 0x4929 (.shlr16 9)) = true := by decide

/-- Every instruction of the family from its word: the pattern of its table with m = 6, n = 9 and an immediate or
displacement of its field width. -/
theorem test_decode_branch :
    (reads 0x8BC3 (.bf 0xC3) &&
    reads 0x8FC3 (.bfS 0xC3) &&
    reads 0x89C3 (.bt 0xC3) &&
    reads 0x8DC3 (.btS 0xC3) &&
    reads 0xA8D4 (.bra 0x8D4) &&
    reads 0x0623 (.braf 6) &&
    reads 0xB8D4 (.bsr 0x8D4) &&
    reads 0x0603 (.bsrf 6) &&
    reads 0x462B (.jmp 6) &&
    reads 0x460B (.jsr 6) &&
    reads 0x000B .rts) = true := by decide

/-- Every instruction of the family from its word: the pattern of its table with m = 6, n = 9 and an immediate or
displacement of its field width. -/
theorem test_decode_systemControl :
    (reads 0x0008 .clrt &&
    reads 0x0018 .sett &&
    reads 0x0028 .clrmac &&
    reads 0x0009 .nop &&
    reads 0x460E (.ldcSr 6) &&
    reads 0x461E (.ldcGbr 6) &&
    reads 0x462E (.ldcVbr 6) &&
    reads 0x4607 (.ldcLSr 6) &&
    reads 0x4617 (.ldcLGbr 6) &&
    reads 0x4627 (.ldcLVbr 6) &&
    reads 0x460A (.ldsMach 6) &&
    reads 0x461A (.ldsMacl 6) &&
    reads 0x462A (.ldsPr 6) &&
    reads 0x4606 (.ldsLMach 6) &&
    reads 0x4616 (.ldsLMacl 6) &&
    reads 0x4626 (.ldsLPr 6) &&
    reads 0x0902 (.stcSr 9) &&
    reads 0x0912 (.stcGbr 9) &&
    reads 0x0922 (.stcVbr 9) &&
    reads 0x4903 (.stcLSr 9) &&
    reads 0x4913 (.stcLGbr 9) &&
    reads 0x4923 (.stcLVbr 9) &&
    reads 0x002B .rte &&
    reads 0x090A (.stsMach 9) &&
    reads 0x091A (.stsMacl 9) &&
    reads 0x092A (.stsPr 9) &&
    reads 0x4902 (.stsLMach 9) &&
    reads 0x4912 (.stsLMacl 9) &&
    reads 0x4922 (.stsLPr 9) &&
    reads 0x001B .sleep &&
    reads 0xC3A5 (.trapa 0xA5)) = true := by decide

theorem test_movImm :
    after (prog 0x1000 0xE180 0x0009 0x0F0)
      (fun t => t.reg 1 == 0xFFFFFF80 && t.pc == 0x00001002) = true := by decide

theorem test_movWPc :
    after ((prog 0x1000 0x9102 0x0009 0x0F0).store .word 0x00001008 0x8234)
      (fun t => t.reg 1 == 0xFFFF8234 && t.pc == 0x00001002) = true := by decide

theorem test_movLPc :
    after ((prog 0x1000 0xD201 0x0009 0x0F0).store .long 0x00001008 0x12345678)
      (fun t => t.reg 2 == 0x12345678 && t.pc == 0x00001002) = true := by decide

theorem test_mov :
    after ((prog 0x1000 0x6213 0x0009 0x0F0).setReg 1 0xDEADBEEF)
      (fun t => t.reg 2 == 0xDEADBEEF && t.pc == 0x00001002) = true := by decide

theorem test_movBStore :
    after ((((prog 0x1000 0x2210 0x0009 0x0F0).setReg 1 0x12345678).setReg 2 0xFFFFA000).store .long 0xFFFFA000
        0x00000000)
      (fun t => t.stored .long 0xFFFFA000 == 0x78000000 && t.pc == 0x00001002) = true := by decide

theorem test_movWStore :
    after ((((prog 0x1000 0x2211 0x0009 0x0F0).setReg 1 0x12345678).setReg 2 0xFFFFA000).store .long 0xFFFFA000
        0x00000000)
      (fun t => t.stored .long 0xFFFFA000 == 0x56780000 && t.pc == 0x00001002) = true := by decide

theorem test_movLStore :
    after ((((prog 0x1000 0x2212 0x0009 0x0F0).setReg 1 0x12345678).setReg 2 0xFFFFA000).store .long 0xFFFFA000
        0x00000000)
      (fun t => t.stored .long 0xFFFFA000 == 0x12345678 && t.pc == 0x00001002) = true := by decide

theorem test_movBLoad :
    after (((prog 0x1000 0x6210 0x0009 0x0F0).setReg 1 0xFFFFA000).store .long 0xFFFFA000 0x89ABCDEF)
      (fun t => t.reg 2 == 0xFFFFFF89 && t.pc == 0x00001002) = true := by decide

theorem test_movWLoad :
    after (((prog 0x1000 0x6211 0x0009 0x0F0).setReg 1 0xFFFFA000).store .long 0xFFFFA000 0x89ABCDEF)
      (fun t => t.reg 2 == 0xFFFF89AB && t.pc == 0x00001002) = true := by decide

theorem test_movLLoad :
    after (((prog 0x1000 0x6212 0x0009 0x0F0).setReg 1 0xFFFFA000).store .long 0xFFFFA000 0x89ABCDEF)
      (fun t => t.reg 2 == 0x89ABCDEF && t.pc == 0x00001002) = true := by decide

theorem test_movBStoreDec :
    after (((prog 0x1000 0x2F14 0x0009 0x0F0).setReg 1 0x12345678).setReg 15 0xFFFFB000)
      (fun t => t.reg 15 == 0xFFFFAFFF && t.stored .byte 0xFFFFAFFF == 0x00000078 && t.pc == 0x00001002) = true := by
          decide

theorem test_movWStoreDec :
    after (((prog 0x1000 0x2F15 0x0009 0x0F0).setReg 1 0x12345678).setReg 15 0xFFFFB000)
      (fun t => t.reg 15 == 0xFFFFAFFE && t.stored .word 0xFFFFAFFE == 0x00005678 && t.pc == 0x00001002) = true := by
          decide

theorem test_movLStoreDec :
    after (((prog 0x1000 0x2F16 0x0009 0x0F0).setReg 1 0x12345678).setReg 15 0xFFFFB000)
      (fun t => t.reg 15 == 0xFFFFAFFC && t.stored .long 0xFFFFAFFC == 0x12345678 && t.pc == 0x00001002) = true := by
          decide

theorem test_movBLoadInc :
    after (((prog 0x1000 0x62F4 0x0009 0x0F0).setReg 15 0xFFFFA000).store .long 0xFFFFA000 0x89ABCDEF)
      (fun t => t.reg 2 == 0xFFFFFF89 && t.reg 15 == 0xFFFFA001 && t.pc == 0x00001002) = true := by decide

theorem test_movWLoadInc :
    after (((prog 0x1000 0x62F5 0x0009 0x0F0).setReg 15 0xFFFFA000).store .long 0xFFFFA000 0x89ABCDEF)
      (fun t => t.reg 2 == 0xFFFF89AB && t.reg 15 == 0xFFFFA002 && t.pc == 0x00001002) = true := by decide

theorem test_movLLoadInc :
    after (((prog 0x1000 0x62F6 0x0009 0x0F0).setReg 15 0xFFFFA000).store .long 0xFFFFA000 0x89ABCDEF)
      (fun t => t.reg 2 == 0x89ABCDEF && t.reg 15 == 0xFFFFA004 && t.pc == 0x00001002) = true := by decide

theorem test_movBStoreDisp :
    after ((((prog 0x1000 0x8013 0x0009 0x0F0).setReg 0 0x000000AB).setReg 1 0xFFFFA000).store .long 0xFFFFA000
        0x00000000)
      (fun t => t.stored .long 0xFFFFA000 == 0x000000AB && t.pc == 0x00001002) = true := by decide

theorem test_movWStoreDisp :
    after ((((prog 0x1000 0x8111 0x0009 0x0F0).setReg 0 0x0000ABCD).setReg 1 0xFFFFA000).store .long 0xFFFFA000
        0x00000000)
      (fun t => t.stored .long 0xFFFFA000 == 0x0000ABCD && t.pc == 0x00001002) = true := by decide

theorem test_movLStoreDisp :
    after (((prog 0x1000 0x121F 0x0009 0x0F0).setReg 1 0x12345678).setReg 2 0xFFFFA000)
      (fun t => t.stored .long 0xFFFFA03C == 0x12345678 && t.pc == 0x00001002) = true := by decide

theorem test_movBLoadDisp :
    after (((prog 0x1000 0x8412 0x0009 0x0F0).setReg 1 0xFFFFA000).store .long 0xFFFFA000 0x1122F344)
      (fun t => t.reg 0 == 0xFFFFFFF3 && t.pc == 0x00001002) = true := by decide

theorem test_movWLoadDisp :
    after (((prog 0x1000 0x8511 0x0009 0x0F0).setReg 1 0xFFFFA000).store .long 0xFFFFA000 0x1122F344)
      (fun t => t.reg 0 == 0xFFFFF344 && t.pc == 0x00001002) = true := by decide

theorem test_movLLoadDisp :
    after (((prog 0x1000 0x5211 0x0009 0x0F0).setReg 1 0xFFFFA000).store .long 0xFFFFA004 0xCAFEF00D)
      (fun t => t.reg 2 == 0xCAFEF00D && t.pc == 0x00001002) = true := by decide

theorem test_movBStoreIdx :
    after (((((prog 0x1000 0x0214 0x0009 0x0F0).setReg 0 0x00000010).setReg 1 0x12345678).setReg 2 0xFFFFA000).store
        .long 0xFFFFA010 0x00000000)
      (fun t => t.stored .long 0xFFFFA010 == 0x78000000 && t.pc == 0x00001002) = true := by decide

theorem test_movWStoreIdx :
    after (((((prog 0x1000 0x0215 0x0009 0x0F0).setReg 0 0x00000010).setReg 1 0x12345678).setReg 2 0xFFFFA000).store
        .long 0xFFFFA010 0x00000000)
      (fun t => t.stored .long 0xFFFFA010 == 0x56780000 && t.pc == 0x00001002) = true := by decide

theorem test_movLStoreIdx :
    after (((((prog 0x1000 0x0216 0x0009 0x0F0).setReg 0 0x00000010).setReg 1 0x12345678).setReg 2 0xFFFFA000).store
        .long 0xFFFFA010 0x00000000)
      (fun t => t.stored .long 0xFFFFA010 == 0x12345678 && t.pc == 0x00001002) = true := by decide

theorem test_movBLoadIdx :
    after ((((prog 0x1000 0x021C 0x0009 0x0F0).setReg 0 0xFFFFFFFC).setReg 1 0xFFFFA004).store .long 0xFFFFA000
        0x80FF7F01)
      (fun t => t.reg 2 == 0xFFFFFF80 && t.pc == 0x00001002) = true := by decide

theorem test_movWLoadIdx :
    after ((((prog 0x1000 0x021D 0x0009 0x0F0).setReg 0 0xFFFFFFFC).setReg 1 0xFFFFA004).store .long 0xFFFFA000
        0x80FF7F01)
      (fun t => t.reg 2 == 0xFFFF80FF && t.pc == 0x00001002) = true := by decide

theorem test_movLLoadIdx :
    after ((((prog 0x1000 0x021E 0x0009 0x0F0).setReg 0 0xFFFFFFFC).setReg 1 0xFFFFA004).store .long 0xFFFFA000
        0x80FF7F01)
      (fun t => t.reg 2 == 0x80FF7F01 && t.pc == 0x00001002) = true := by decide

theorem test_movBStoreGbr :
    after ({ ((((prog 0x1000 0xC002 0x0009 0x0F0).setReg 0 0x12345678).store .long 0xFFFFA000 0x00000000).store .long
        0xFFFFA004 0x00000000).store .long 0xFFFFA008 0x00000000 with gbr := 0xFFFFA000 })
      (fun t => t.stored .long 0xFFFFA000 == 0x00007800 && t.stored .long 0xFFFFA004 == 0x00000000 && t.stored .long
          0xFFFFA008 == 0x00000000 && t.pc == 0x00001002) = true := by decide

theorem test_movWStoreGbr :
    after ({ ((((prog 0x1000 0xC102 0x0009 0x0F0).setReg 0 0x12345678).store .long 0xFFFFA000 0x00000000).store .long
        0xFFFFA004 0x00000000).store .long 0xFFFFA008 0x00000000 with gbr := 0xFFFFA000 })
      (fun t => t.stored .long 0xFFFFA000 == 0x00000000 && t.stored .long 0xFFFFA004 == 0x56780000 && t.stored .long
          0xFFFFA008 == 0x00000000 && t.pc == 0x00001002) = true := by decide

theorem test_movLStoreGbr :
    after ({ ((((prog 0x1000 0xC202 0x0009 0x0F0).setReg 0 0x12345678).store .long 0xFFFFA000 0x00000000).store .long
        0xFFFFA004 0x00000000).store .long 0xFFFFA008 0x00000000 with gbr := 0xFFFFA000 })
      (fun t => t.stored .long 0xFFFFA000 == 0x00000000 && t.stored .long 0xFFFFA004 == 0x00000000 && t.stored .long
          0xFFFFA008 == 0x12345678 && t.pc == 0x00001002) = true := by decide

theorem test_movBLoadGbr :
    after ({ ((prog 0x1000 0xC401 0x0009 0x0F0).store .long 0xFFFFA000 0x01F203F4).store .long 0xFFFFA004 0x85060708
        with gbr := 0xFFFFA000 })
      (fun t => t.reg 0 == 0xFFFFFFF2 && t.pc == 0x00001002) = true := by decide

theorem test_movWLoadGbr :
    after ({ ((prog 0x1000 0xC501 0x0009 0x0F0).store .long 0xFFFFA000 0x01F203F4).store .long 0xFFFFA004 0x85060708
        with gbr := 0xFFFFA000 })
      (fun t => t.reg 0 == 0x000003F4 && t.pc == 0x00001002) = true := by decide

theorem test_movLLoadGbr :
    after ({ ((prog 0x1000 0xC601 0x0009 0x0F0).store .long 0xFFFFA000 0x01F203F4).store .long 0xFFFFA004 0x85060708
        with gbr := 0xFFFFA000 })
      (fun t => t.reg 0 == 0x85060708 && t.pc == 0x00001002) = true := by decide

theorem test_mova :
    after (prog 0x1002 0xC701 0x0009 0x0F0)
      (fun t => t.reg 0 == 0x00001008 && t.pc == 0x00001004) = true := by decide

theorem test_movt :
    after ((prog 0x1000 0x0329 0x0009 0x0F1).setReg 3 0xFFFFFFFF)
      (fun t => t.reg 3 == 0x00000001 && t.pc == 0x00001002) = true := by decide

theorem test_swapB :
    after ((prog 0x1000 0x6218 0x0009 0x0F0).setReg 1 0x12345678)
      (fun t => t.reg 2 == 0x12347856 && t.pc == 0x00001002) = true := by decide

theorem test_swapW :
    after ((prog 0x1000 0x6219 0x0009 0x0F0).setReg 1 0x12345678)
      (fun t => t.reg 2 == 0x56781234 && t.pc == 0x00001002) = true := by decide

theorem test_xtrct :
    after (((prog 0x1000 0x221D 0x0009 0x0F0).setReg 1 0x12345678).setReg 2 0x9ABCDEF0)
      (fun t => t.reg 2 == 0x56789ABC && t.pc == 0x00001002) = true := by decide

theorem test_add :
    after (((prog 0x1000 0x321C 0x0009 0x0F0).setReg 1 0xFFFFFFFF).setReg 2 0x00000002)
      (fun t => t.reg 2 == 0x00000001 && t.flagT == false && t.pc == 0x00001002) = true := by decide

theorem test_addImm :
    after ((prog 0x1000 0x7FFC 0x0009 0x0F0).setReg 15 0xFFFFB000)
      (fun t => t.reg 15 == 0xFFFFAFFC && t.pc == 0x00001002) = true := by decide

theorem test_addc :
    after (((prog 0x1000 0x321E 0x0009 0x0F1).setReg 1 0xFFFFFFFF).setReg 2 0x00000000)
      (fun t => t.reg 2 == 0x00000000 && t.flagT == true && t.pc == 0x00001002) = true := by decide

theorem test_addv :
    after (((prog 0x1000 0x321F 0x0009 0x0F0).setReg 1 0x00000001).setReg 2 0x7FFFFFFF)
      (fun t => t.reg 2 == 0x80000000 && t.flagT == true && t.pc == 0x00001002) = true := by decide

theorem test_cmpEqImm :
    after ((prog 0x1000 0x88FF 0x0009 0x0F0).setReg 0 0xFFFFFFFF)
      (fun t => t.flagT == true && t.pc == 0x00001002) = true := by decide

theorem test_cmpEq :
    after (((prog 0x1000 0x3210 0x0009 0x0F0).setReg 1 0x00000005).setReg 2 0x00000005)
      (fun t => t.flagT == true && t.pc == 0x00001002) = true := by decide

theorem test_cmpHs :
    after (((prog 0x1000 0x3212 0x0009 0x0F0).setReg 1 0x00000001).setReg 2 0x80000000)
      (fun t => t.flagT == true && t.pc == 0x00001002) = true := by decide

theorem test_cmpGe :
    after (((prog 0x1000 0x3213 0x0009 0x0F1).setReg 1 0x00000001).setReg 2 0x80000000)
      (fun t => t.flagT == false && t.pc == 0x00001002) = true := by decide

theorem test_cmpHi :
    after (((prog 0x1000 0x3216 0x0009 0x0F1).setReg 1 0x00000005).setReg 2 0x00000005)
      (fun t => t.flagT == false && t.pc == 0x00001002) = true := by decide

theorem test_cmpGt :
    after (((prog 0x1000 0x3217 0x0009 0x0F0).setReg 1 0xFFFFFFFF).setReg 2 0x00000000)
      (fun t => t.flagT == true && t.pc == 0x00001002) = true := by decide

theorem test_cmpPl :
    after ((prog 0x1000 0x4115 0x0009 0x0F1).setReg 1 0x00000000)
      (fun t => t.flagT == false && t.pc == 0x00001002) = true := by decide

theorem test_cmpPz :
    after ((prog 0x1000 0x4111 0x0009 0x0F1).setReg 1 0x80000000)
      (fun t => t.flagT == false && t.pc == 0x00001002) = true := by decide

theorem test_cmpStr :
    after (((prog 0x1000 0x221C 0x0009 0x0F0).setReg 1 0x11223344).setReg 2 0x55663377)
      (fun t => t.flagT == true && t.pc == 0x00001002) = true := by decide

theorem test_div1 :
    after (((prog 0x1000 0x3214 0x0009 0x0F0).setReg 1 0x43210000).setReg 2 0x12345678)
      (fun t => t.reg 2 == 0xE147ACF0 && t.flagQ == true && t.flagT == false && t.pc == 0x00001002) = true := by decide

theorem test_div0s :
    after (((prog 0x1000 0x2217 0x0009 0x1F0).setReg 1 0x80000000).setReg 2 0x00000001)
      (fun t => t.flagQ == false && t.flagM == true && t.flagT == true && t.pc == 0x00001002) = true := by decide

theorem test_div0u :
    after (prog 0x1000 0x0019 0x0009 0x3F3)
      (fun t => t.sr == 0x000000F2 && t.pc == 0x00001002) = true := by decide

theorem test_dmulsL :
    after (((prog 0x1000 0x321D 0x0009 0x0F0).setReg 1 0xFFFFFFFE).setReg 2 0x00000003)
      (fun t => t.mach == 0xFFFFFFFF && t.macl == 0xFFFFFFFA && t.pc == 0x00001002) = true := by decide

theorem test_dmuluL :
    after (((prog 0x1000 0x3215 0x0009 0x0F0).setReg 1 0xFFFFFFFE).setReg 2 0x00000003)
      (fun t => t.mach == 0x00000002 && t.macl == 0xFFFFFFFA && t.pc == 0x00001002) = true := by decide

theorem test_dt :
    after ((prog 0x1000 0x4110 0x0009 0x0F0).setReg 1 0x00000001)
      (fun t => t.reg 1 == 0x00000000 && t.flagT == true && t.pc == 0x00001002) = true := by decide

theorem test_extsB :
    after ((prog 0x1000 0x621E 0x0009 0x0F0).setReg 1 0x12345680)
      (fun t => t.reg 2 == 0xFFFFFF80 && t.pc == 0x00001002) = true := by decide

theorem test_extsW :
    after ((prog 0x1000 0x621F 0x0009 0x0F0).setReg 1 0x12348000)
      (fun t => t.reg 2 == 0xFFFF8000 && t.pc == 0x00001002) = true := by decide

theorem test_extuB :
    after ((prog 0x1000 0x621C 0x0009 0x0F0).setReg 1 0x12345680)
      (fun t => t.reg 2 == 0x00000080 && t.pc == 0x00001002) = true := by decide

theorem test_extuW :
    after ((prog 0x1000 0x621D 0x0009 0x0F0).setReg 1 0x12348000)
      (fun t => t.reg 2 == 0x00008000 && t.pc == 0x00001002) = true := by decide

theorem test_macL :
    after ({ ((((prog 0x1000 0x021F 0x0009 0x0F0).setReg 1 0xFFFFA000).setReg 2 0xFFFFA004).store .long 0xFFFFA000
        0xFFFFFFFE).store .long 0xFFFFA004 0x00000003 with mach := 0x00000000, macl := 0x00000001 })
      (fun t => t.reg 1 == 0xFFFFA004 && t.reg 2 == 0xFFFFA008 && t.mach == 0xFFFFFFFF && t.macl == 0xFFFFFFFB && t.pc
          == 0x00001002) = true := by decide

theorem test_macW :
    after ({ (((prog 0x1000 0x421F 0x0009 0x0F0).setReg 1 0xFFFFA000).setReg 2 0xFFFFA002).store .long 0xFFFFA000
        0xFFFE0003 with mach := 0x00000000, macl := 0x00000010 })
      (fun t => t.reg 1 == 0xFFFFA002 && t.reg 2 == 0xFFFFA004 && t.mach == 0x00000000 && t.macl == 0x0000000A && t.pc
          == 0x00001002) = true := by decide

theorem test_mulL :
    after ({ ((prog 0x1000 0x0217 0x0009 0x0F0).setReg 1 0x00010001).setReg 2 0x00010001 with mach := 0xAAAAAAAA })
      (fun t => t.mach == 0xAAAAAAAA && t.macl == 0x00020001 && t.pc == 0x00001002) = true := by decide

theorem test_mulsW :
    after ({ ((prog 0x1000 0x221F 0x0009 0x0F0).setReg 1 0x1234FFFE).setReg 2 0xABCD0003 with mach := 0xAAAAAAAA })
      (fun t => t.mach == 0xAAAAAAAA && t.macl == 0xFFFFFFFA && t.pc == 0x00001002) = true := by decide

theorem test_muluW :
    after ({ ((prog 0x1000 0x221E 0x0009 0x0F0).setReg 1 0x1234FFFE).setReg 2 0xABCD0003 with mach := 0xAAAAAAAA })
      (fun t => t.mach == 0xAAAAAAAA && t.macl == 0x0002FFFA && t.pc == 0x00001002) = true := by decide

theorem test_neg :
    after ((prog 0x1000 0x621B 0x0009 0x0F0).setReg 1 0x00000001)
      (fun t => t.reg 2 == 0xFFFFFFFF && t.pc == 0x00001002) = true := by decide

theorem test_negc :
    after ((prog 0x1000 0x621A 0x0009 0x0F0).setReg 1 0x00000001)
      (fun t => t.reg 2 == 0xFFFFFFFF && t.flagT == true && t.pc == 0x00001002) = true := by decide

theorem test_sub :
    after (((prog 0x1000 0x3218 0x0009 0x0F0).setReg 1 0x00000003).setReg 2 0x00000001)
      (fun t => t.reg 2 == 0xFFFFFFFE && t.pc == 0x00001002) = true := by decide

theorem test_subc :
    after (((prog 0x1000 0x321A 0x0009 0x0F1).setReg 1 0x00000000).setReg 2 0x00000000)
      (fun t => t.reg 2 == 0xFFFFFFFF && t.flagT == true && t.pc == 0x00001002) = true := by decide

theorem test_subv :
    after (((prog 0x1000 0x321B 0x0009 0x0F0).setReg 1 0x00000001).setReg 2 0x80000000)
      (fun t => t.reg 2 == 0x7FFFFFFF && t.flagT == true && t.pc == 0x00001002) = true := by decide

theorem test_andReg :
    after (((prog 0x1000 0x2219 0x0009 0x0F0).setReg 1 0x0F0F00FF).setReg 2 0x12345678)
      (fun t => t.reg 2 == 0x02040078 && t.pc == 0x00001002) = true := by decide

theorem test_andImm :
    after ((prog 0x1000 0xC9F0 0x0009 0x0F0).setReg 0 0x123456FF)
      (fun t => t.reg 0 == 0x000000F0 && t.pc == 0x00001002) = true := by decide

theorem test_andB :
    after ({ ((prog 0x1000 0xCD0F 0x0009 0x0F0).setReg 0 0x00000001).store .long 0xFFFFA000 0x11FF3344 with gbr :=
        0xFFFFA000 })
      (fun t => t.stored .long 0xFFFFA000 == 0x110F3344 && t.pc == 0x00001002) = true := by decide

theorem test_notReg :
    after ((prog 0x1000 0x6217 0x0009 0x0F0).setReg 1 0x0F0F00FF)
      (fun t => t.reg 2 == 0xF0F0FF00 && t.pc == 0x00001002) = true := by decide

theorem test_orReg :
    after (((prog 0x1000 0x221B 0x0009 0x0F0).setReg 1 0x0F0F00FF).setReg 2 0x12345678)
      (fun t => t.reg 2 == 0x1F3F56FF && t.pc == 0x00001002) = true := by decide

theorem test_orImm :
    after ((prog 0x1000 0xCBF0 0x0009 0x0F0).setReg 0 0x1234560F)
      (fun t => t.reg 0 == 0x123456FF && t.pc == 0x00001002) = true := by decide

theorem test_orB :
    after ({ ((prog 0x1000 0xCF80 0x0009 0x0F0).setReg 0 0x00000002).store .long 0xFFFFA000 0x11223344 with gbr :=
        0xFFFFA000 })
      (fun t => t.stored .long 0xFFFFA000 == 0x1122B344 && t.pc == 0x00001002) = true := by decide

theorem test_tasB :
    after (((prog 0x1000 0x411B 0x0009 0x0F0).setReg 1 0xFFFFA001).store .long 0xFFFFA000 0x11003344)
      (fun t => t.flagT == true && t.stored .long 0xFFFFA000 == 0x11803344 && t.pc == 0x00001002) = true := by decide

theorem test_tst :
    after (((prog 0x1000 0x2218 0x0009 0x0F0).setReg 1 0x0000FF00).setReg 2 0x12340078)
      (fun t => t.flagT == true && t.pc == 0x00001002) = true := by decide

theorem test_tstImm :
    after ((prog 0x1000 0xC880 0x0009 0x0F0).setReg 0 0xFFFFFF7F)
      (fun t => t.flagT == true && t.pc == 0x00001002) = true := by decide

theorem test_tstB :
    after ({ ((prog 0x1000 0xCC01 0x0009 0x0F1).setReg 0 0x00000003).store .long 0xFFFFA000 0x11223345 with gbr :=
        0xFFFFA000 })
      (fun t => t.flagT == false && t.pc == 0x00001002) = true := by decide

theorem test_xorReg :
    after (((prog 0x1000 0x221A 0x0009 0x0F0).setReg 1 0x0F0F00FF).setReg 2 0x12345678)
      (fun t => t.reg 2 == 0x1D3B5687 && t.pc == 0x00001002) = true := by decide

theorem test_xorImm :
    after ((prog 0x1000 0xCAFF 0x0009 0x0F0).setReg 0 0x123456F0)
      (fun t => t.reg 0 == 0x1234560F && t.pc == 0x00001002) = true := by decide

theorem test_xorB :
    after ({ ((prog 0x1000 0xCEFF 0x0009 0x0F0).setReg 0 0x00000000).store .long 0xFFFFA000 0x11223344 with gbr :=
        0xFFFFA000 })
      (fun t => t.stored .long 0xFFFFA000 == 0xEE223344 && t.pc == 0x00001002) = true := by decide

theorem test_rotl :
    after ((prog 0x1000 0x4104 0x0009 0x0F0).setReg 1 0x80000001)
      (fun t => t.reg 1 == 0x00000003 && t.flagT == true && t.pc == 0x00001002) = true := by decide

theorem test_rotr :
    after ((prog 0x1000 0x4105 0x0009 0x0F0).setReg 1 0x00000003)
      (fun t => t.reg 1 == 0x80000001 && t.flagT == true && t.pc == 0x00001002) = true := by decide

theorem test_rotcl :
    after ((prog 0x1000 0x4124 0x0009 0x0F0).setReg 1 0x80000001)
      (fun t => t.reg 1 == 0x00000002 && t.flagT == true && t.pc == 0x00001002) = true := by decide

theorem test_rotcr :
    after ((prog 0x1000 0x4125 0x0009 0x0F0).setReg 1 0x80000001)
      (fun t => t.reg 1 == 0x40000000 && t.flagT == true && t.pc == 0x00001002) = true := by decide

theorem test_shal :
    after ((prog 0x1000 0x4120 0x0009 0x0F0).setReg 1 0xC0000001)
      (fun t => t.reg 1 == 0x80000002 && t.flagT == true && t.pc == 0x00001002) = true := by decide

theorem test_shar :
    after ((prog 0x1000 0x4121 0x0009 0x0F0).setReg 1 0x80000001)
      (fun t => t.reg 1 == 0xC0000000 && t.flagT == true && t.pc == 0x00001002) = true := by decide

theorem test_shll :
    after ((prog 0x1000 0x4100 0x0009 0x0F0).setReg 1 0x80000001)
      (fun t => t.reg 1 == 0x00000002 && t.flagT == true && t.pc == 0x00001002) = true := by decide

theorem test_shlr :
    after ((prog 0x1000 0x4101 0x0009 0x0F0).setReg 1 0x80000001)
      (fun t => t.reg 1 == 0x40000000 && t.flagT == true && t.pc == 0x00001002) = true := by decide

theorem test_shll2 :
    after ((prog 0x1000 0x4108 0x0009 0x0F1).setReg 1 0x12345678)
      (fun t => t.reg 1 == 0x48D159E0 && t.flagT == true && t.pc == 0x00001002) = true := by decide

theorem test_shlr2 :
    after ((prog 0x1000 0x4109 0x0009 0x0F1).setReg 1 0x92345678)
      (fun t => t.reg 1 == 0x248D159E && t.flagT == true && t.pc == 0x00001002) = true := by decide

theorem test_shll8 :
    after ((prog 0x1000 0x4118 0x0009 0x0F1).setReg 1 0x12345678)
      (fun t => t.reg 1 == 0x34567800 && t.flagT == true && t.pc == 0x00001002) = true := by decide

theorem test_shlr8 :
    after ((prog 0x1000 0x4119 0x0009 0x0F1).setReg 1 0x92345678)
      (fun t => t.reg 1 == 0x00923456 && t.flagT == true && t.pc == 0x00001002) = true := by decide

theorem test_shll16 :
    after ((prog 0x1000 0x4128 0x0009 0x0F1).setReg 1 0x12345678)
      (fun t => t.reg 1 == 0x56780000 && t.flagT == true && t.pc == 0x00001002) = true := by decide

theorem test_shlr16 :
    after ((prog 0x1000 0x4129 0x0009 0x0F1).setReg 1 0x92345678)
      (fun t => t.reg 1 == 0x00009234 && t.flagT == true && t.pc == 0x00001002) = true := by decide

theorem test_bf :
    after (prog 0x1000 0x8B80 0x7101 0x0F0)
      (fun t => t.pc == 0x00000F04) = true := by decide

theorem test_bfS :
    afterSlot ((prog 0x1000 0x8F02 0x7101 0x0F0).setReg 1 0x00000000)
      (fun t => t.reg 1 == 0x00000001 && t.pc == 0x00001008) = true := by decide

theorem test_bt :
    after (prog 0x1000 0x8980 0x7101 0x0F1)
      (fun t => t.pc == 0x00000F04) = true := by decide

theorem test_btS :
    afterSlot ((prog 0x1000 0x8D02 0x7101 0x0F1).setReg 1 0x00000000)
      (fun t => t.reg 1 == 0x00000001 && t.pc == 0x00001008) = true := by decide

theorem test_bra :
    afterSlot ((prog 0x1000 0xA7FF 0x7101 0x0F0).setReg 1 0x00000000)
      (fun t => t.reg 1 == 0x00000001 && t.pc == 0x00002002) = true := by decide

theorem test_braf :
    afterSlot ((prog 0x1000 0x0123 0x7101 0x0F0).setReg 1 0x00000100)
      (fun t => t.reg 1 == 0x00000101 && t.pc == 0x00001104) = true := by decide

theorem test_bsr :
    afterSlot ({ prog 0x1000 0xB010 0x7101 0x0F0 with pr := 0x00000000 })
      (fun t => t.pc == 0x00001024 && t.pr == 0x00001004) = true := by decide

theorem test_bsrf :
    afterSlot ({ (prog 0x1000 0x0103 0x7101 0x0F0).setReg 1 0xFFFFFFFC with pr := 0x00000000 })
      (fun t => t.pc == 0x00001000 && t.pr == 0x00001004) = true := by decide

theorem test_jmp :
    afterSlot ((prog 0x1000 0x412B 0x7101 0x0F0).setReg 1 0x00002000)
      (fun t => t.pc == 0x00002000) = true := by decide

theorem test_jsr :
    afterSlot ({ (prog 0x1000 0x410B 0x7101 0x0F0).setReg 1 0x00002000 with pr := 0x00000000 })
      (fun t => t.pc == 0x00002000 && t.pr == 0x00001004) = true := by decide

theorem test_rts :
    afterSlot ({ (prog 0x1000 0x000B 0x7F04 0x0F0).setReg 15 0xFFFFB000 with pr := 0x00001234 })
      (fun t => t.reg 15 == 0xFFFFB004 && t.pc == 0x00001234 && t.pr == 0x00001234) = true := by decide

theorem test_clrt :
    after (prog 0x1000 0x0008 0x0009 0x033)
      (fun t => t.sr == 0x00000032 && t.pc == 0x00001002) = true := by decide

theorem test_sett :
    after (prog 0x1000 0x0018 0x0009 0x0F0)
      (fun t => t.sr == 0x000000F1 && t.pc == 0x00001002) = true := by decide

theorem test_clrmac :
    after ({ prog 0x1000 0x0028 0x0009 0x0F0 with mach := 0x12345678, macl := 0x9ABCDEF0 })
      (fun t => t.mach == 0x00000000 && t.macl == 0x00000000 && t.pc == 0x00001002) = true := by decide

theorem test_nop :
    after (prog 0x1000 0x0009 0x0009 0x0F1)
      (fun t => t.flagT == true && t.pc == 0x00001002) = true := by decide

theorem test_ldcSr :
    after ((prog 0x1000 0x410E 0x0009 0x0F0).setReg 1 0xFFFFFFFF)
      (fun t => t.sr == 0x000003F3 && t.pc == 0x00001002) = true := by decide

theorem test_ldcGbr :
    after ((prog 0x1000 0x411E 0x0009 0x0F0).setReg 1 0xFFFFC000)
      (fun t => t.gbr == 0xFFFFC000 && t.pc == 0x00001002) = true := by decide

theorem test_ldcVbr :
    after ((prog 0x1000 0x412E 0x0009 0x0F0).setReg 1 0xFFFFA000)
      (fun t => t.vbr == 0xFFFFA000 && t.pc == 0x00001002) = true := by decide

theorem test_ldcLSr :
    after (((prog 0x1000 0x4F07 0x0009 0x0F0).setReg 15 0xFFFFA000).store .long 0xFFFFA000 0x00000101)
      (fun t => t.reg 15 == 0xFFFFA004 && t.sr == 0x00000101 && t.pc == 0x00001002) = true := by decide

theorem test_ldcLGbr :
    after (((prog 0x1000 0x4F17 0x0009 0x0F0).setReg 15 0xFFFFA000).store .long 0xFFFFA000 0xFFFFC000)
      (fun t => t.reg 15 == 0xFFFFA004 && t.gbr == 0xFFFFC000 && t.pc == 0x00001002) = true := by decide

theorem test_ldcLVbr :
    after (((prog 0x1000 0x4F27 0x0009 0x0F0).setReg 15 0xFFFFA000).store .long 0xFFFFA000 0x00002000)
      (fun t => t.reg 15 == 0xFFFFA004 && t.vbr == 0x00002000 && t.pc == 0x00001002) = true := by decide

theorem test_ldsMach :
    after ((prog 0x1000 0x410A 0x0009 0x0F0).setReg 1 0x89ABCDEF)
      (fun t => t.mach == 0x89ABCDEF && t.pc == 0x00001002) = true := by decide

theorem test_ldsMacl :
    after ((prog 0x1000 0x411A 0x0009 0x0F0).setReg 1 0x89ABCDEF)
      (fun t => t.macl == 0x89ABCDEF && t.pc == 0x00001002) = true := by decide

theorem test_ldsPr :
    after ((prog 0x1000 0x412A 0x0009 0x0F0).setReg 1 0x89ABCDEF)
      (fun t => t.pr == 0x89ABCDEF && t.pc == 0x00001002) = true := by decide

theorem test_ldsLMach :
    after (((prog 0x1000 0x4F06 0x0009 0x0F0).setReg 15 0xFFFFA000).store .long 0xFFFFA000 0x00001234)
      (fun t => t.reg 15 == 0xFFFFA004 && t.mach == 0x00001234 && t.pc == 0x00001002) = true := by decide

theorem test_ldsLMacl :
    after (((prog 0x1000 0x4F16 0x0009 0x0F0).setReg 15 0xFFFFA000).store .long 0xFFFFA000 0x00001234)
      (fun t => t.reg 15 == 0xFFFFA004 && t.macl == 0x00001234 && t.pc == 0x00001002) = true := by decide

theorem test_ldsLPr :
    after (((prog 0x1000 0x4F26 0x0009 0x0F0).setReg 15 0xFFFFA000).store .long 0xFFFFA000 0x00001234)
      (fun t => t.reg 15 == 0xFFFFA004 && t.pr == 0x00001234 && t.pc == 0x00001002) = true := by decide

theorem test_stcSr :
    after (prog 0x1000 0x0102 0x0009 0x2F3)
      (fun t => t.reg 1 == 0x000002F3 && t.pc == 0x00001002) = true := by decide

theorem test_stcGbr :
    after ({ prog 0x1000 0x0112 0x0009 0x0F0 with gbr := 0xFFFFC000 })
      (fun t => t.reg 1 == 0xFFFFC000 && t.pc == 0x00001002) = true := by decide

theorem test_stcVbr :
    after ({ prog 0x1000 0x0122 0x0009 0x0F0 with vbr := 0xFFFFC000 })
      (fun t => t.reg 1 == 0xFFFFC000 && t.pc == 0x00001002) = true := by decide

theorem test_stcLSr :
    after ((prog 0x1000 0x4F03 0x0009 0x0F1).setReg 15 0xFFFFB000)
      (fun t => t.reg 15 == 0xFFFFAFFC && t.stored .long 0xFFFFAFFC == 0x000000F1 && t.pc == 0x00001002) = true := by
          decide

theorem test_stcLGbr :
    after ({ (prog 0x1000 0x4F13 0x0009 0x0F0).setReg 15 0xFFFFB000 with gbr := 0xFFFFC000 })
      (fun t => t.reg 15 == 0xFFFFAFFC && t.stored .long 0xFFFFAFFC == 0xFFFFC000 && t.pc == 0x00001002) = true := by
          decide

theorem test_stcLVbr :
    after ({ (prog 0x1000 0x4F23 0x0009 0x0F0).setReg 15 0xFFFFB000 with vbr := 0xFFFFC000 })
      (fun t => t.reg 15 == 0xFFFFAFFC && t.stored .long 0xFFFFAFFC == 0xFFFFC000 && t.pc == 0x00001002) = true := by
          decide

theorem test_rte :
    afterSlot ((((prog 0x1000 0x002B 0x0009 0x0F0).setReg 15 0xFFFFAFF8).store .long 0xFFFFAFF8 0x00001234).store
        .long 0xFFFFAFFC 0x00000301)
      (fun t => t.reg 15 == 0xFFFFB000 && t.pc == 0x00001234 && t.sr == 0x00000301) = true := by decide

theorem test_stsMach :
    after ({ prog 0x1000 0x010A 0x0009 0x0F0 with mach := 0x89ABCDEF })
      (fun t => t.reg 1 == 0x89ABCDEF && t.pc == 0x00001002) = true := by decide

theorem test_stsMacl :
    after ({ prog 0x1000 0x011A 0x0009 0x0F0 with macl := 0x89ABCDEF })
      (fun t => t.reg 1 == 0x89ABCDEF && t.pc == 0x00001002) = true := by decide

theorem test_stsPr :
    after ({ prog 0x1000 0x012A 0x0009 0x0F0 with pr := 0x89ABCDEF })
      (fun t => t.reg 1 == 0x89ABCDEF && t.pc == 0x00001002) = true := by decide

theorem test_stsLMach :
    after ({ (prog 0x1000 0x4F02 0x0009 0x0F0).setReg 15 0xFFFFB000 with mach := 0x00001234 })
      (fun t => t.reg 15 == 0xFFFFAFFC && t.stored .long 0xFFFFAFFC == 0x00001234 && t.pc == 0x00001002) = true := by
          decide

theorem test_stsLMacl :
    after ({ (prog 0x1000 0x4F12 0x0009 0x0F0).setReg 15 0xFFFFB000 with macl := 0x00001234 })
      (fun t => t.reg 15 == 0xFFFFAFFC && t.stored .long 0xFFFFAFFC == 0x00001234 && t.pc == 0x00001002) = true := by
          decide

theorem test_stsLPr :
    after ({ (prog 0x1000 0x4F22 0x0009 0x0F0).setReg 15 0xFFFFB000 with pr := 0x00001234 })
      (fun t => t.reg 15 == 0xFFFFAFFC && t.stored .long 0xFFFFAFFC == 0x00001234 && t.pc == 0x00001002) = true := by
          decide

theorem test_trapa :
    after ({ ((prog 0x1000 0xC320 0x0009 0x031).setReg 15 0xFFFFB000).store .long 0x00000080 0x00003000 with vbr :=
        0x00000000 })
      (fun t => t.reg 15 == 0xFFFFAFF8 && t.pc == 0x00003000 && t.sr == 0x00000031 && t.stored .long 0xFFFFAFFC ==
          0x00000031 && t.stored .long 0xFFFFAFF8 == 0x00001002) = true := by decide

/-! ## More single steps: exceptions, interrupts, low-power modes, the modules (vectors B1-25, B5-17, B5-20, B6-19 to
    B6-21,
D1-3, D1-6, D1-8, D8-2, D9-1 of 95_test_vectors.md) -/

theorem test_sleep :
    after (prog 0x1000 0x001B 9 0xF0) (fun t => decide (t.proc = .sleep) && t.pc == 0x1002) = true := by decide

theorem test_bf_notTaken : after (prog 0x1000 0x8B80 9 0xF1) (fun t => t.pc == 0x1002) = true := by decide

theorem test_bfS_notTaken :
    after (prog 0x1000 0x8F02 0x7101 0xF1) (fun t => t.pc == 0x1002 && decide (t.slot = none)) = true := by decide

theorem test_movLLoadInc_same :
    after (((prog 0x1000 0x6116 9 0xF0).setReg 1 0xFFFFA000).store .long 0xFFFFA000 0x0BADCAFE)
      (fun t => t.reg 1 == 0x0BADCAFE) = true := by decide

theorem test_movLStoreDec_same :
    after ((prog 0x1000 0x2116 9 0xF0).setReg 1 0xFFFFA004)
      (fun t => t.reg 1 == 0xFFFFA000 && t.stored .long 0xFFFFA000 == 0xFFFFA004) = true := by decide

theorem test_macL_saturates :
    after ((({ prog 0x1000 0x012F 9 0xF2 with mach := 0x00007FFF, macl := 0xFFFFFFFF }.setReg 1 0xFFFFA000).setReg 2
        0xFFFFA008).store .long 0xFFFFA000 2 |>.store .long 0xFFFFA008 3)
      (fun t => t.mach == 0x00007FFF && t.macl == 0xFFFFFFFF && t.reg 1 == 0xFFFFA004) = true := by decide

theorem test_macW_saturates :
    after ((({ prog 0x1000 0x412F 9 0xF2 with macl := 0x7FFFFFFF }.setReg 1 0xFFFFA000).setReg 2
        0xFFFFA008).store .word 0xFFFFA000 1 |>.store .word 0xFFFFA008 1)
      (fun t => t.mach == 1 && t.macl == 0x7FFFFFFF && t.reg 2 == 0xFFFFA00A) = true := by decide

theorem test_movWLoad_misaligned :
    after ((((prog 0x1000 0x6211 9 0xF1).setReg 1 0xFFFFA001).setReg 15 0xFFFFB000).store .long 0x24 0x2000)
      (fun t => t.pc == 0x2000 && t.reg 15 == 0xFFFFAFF8 && t.stored .long 0xFFFFAFFC == 0xF1 &&
        t.stored .long 0xFFFFAFF8 == 0x1000 && t.sr == 0xF1) = true := by decide

theorem test_bra_slotIllegal :
    afterSlot (({ prog 0x1000 0xA010 0xA000 0xF0 with pr := 0x77 }.setReg 15 0xFFFFB000).store .long 0x18 0x2000)
      (fun t => t.pc == 0x2000 && t.pr == 0x77 && t.stored .long 0xFFFFAFF8 == 0x1000) = true := by decide

theorem test_mova_inSlot :
    after { prog 0x1000 0xA000 0xC700 0xF0 with agenda := [.cpu, .cpu] } (fun t => stops t .pcRelativeInDelaySlot) =
        true := by
  decide

theorem test_illegalCode :
    after (((prog 0x1000 0xFFFF 9 0xF1).setReg 15 0xFFFFB000).store .long 0x10 0x2000)
      (fun t => t.pc == 0x2000 && t.stored .long 0xFFFFAFF8 == 0x1000) = true := by decide

theorem test_undefinedCode : stops (prog 0x1000 0x0000 9 0xF0) .undefinedOpcode = true := by decide

theorem test_irq1_before_cmi :
    after ((({ prog 0x1000 9 9 0x40 with
          intc := { Intc.reset with ipra := 0x0500, iprj := 0x5000 }, pins := { Pins.reset with irq := 0xD },
          power := { Power.reset with stbcr4 := 0xDF },
          cmt := { Cmt.reset with ch0 := { CmtChannel.reset with cmcsr := 0x00C0 } } }).setReg 15 0xFFFFB000).store
        .long 0x104 0x3100)
      (fun t => t.pc == 0x3100 && t.sr == 0x50 && t.stored .long 0xFFFFAFFC == 0x40) = true := by decide

theorem test_blocked_interrupt :
    after ({ prog 0x1000 0x012A 9 0x00 with
        irqBlock := true, pr := 0xABC, intc := { Intc.reset with ipra := 0x5000 }, pins := { Pins.reset with irq :=
            0xE } })
      (fun t => t.reg 1 == 0xABC && t.irqBlock) = true := by decide

theorem test_entry_misaligned_stack :
    after ((({ prog 0x1000 9 9 0x00 with
          intc := { Intc.reset with ipra := 0x5000 }, pins := { Pins.reset with irq := 0xE } }).setReg 15
          0xFFFFB002).store .long 0x100 0x3000 |>.store .long 0x24 0x2400)
      (fun t => t.pc == 0x2400 && t.sr == 0x50 && t.reg 15 == 0xFFFFAFF2) = true := by decide

theorem test_resetSequence :
    after ((State.reset.store .long 0 0x1000).store .long 4 0xFFFFC000)
      (fun t => t.pc == 0x1000 && t.reg 15 == 0xFFFFC000 && t.vbr == 0 && decide (t.proc = .run)) = true := by decide

/-! ## Witnesses: for every statement with hypotheses, a state and operands that meet them -/

/-- The access succeeds, and its value and state pass the check. -/
def passes {α : Type} (x : Access α) (p : α → State → Bool) : Bool :=
  match x with
  | .ok v s => p v s
  | .addressError _ => false
  | .stop _ => false

theorem exists_ok {α : Type} {x : Access α} (p : α → State → Bool) (h : passes x p = true) :
    ∃ v s, x = .ok v s ∧ p v s = true := by
  cases x with
  | ok v s => exact ⟨v, s, rfl, h⟩
  | addressError s => cases h
  | stop f => cases h

/-- The access is an address error. -/
def isAddressError {α : Type} (x : Access α) : Bool :=
  match x with
  | .ok _ _ => false
  | .addressError _ => true
  | .stop _ => false

theorem exists_addressError {α : Type} {x : Access α} (h : isAddressError x = true) :
    ∃ s, x = .addressError s := by
  cases x with
  | ok v s => cases h
  | addressError s => exact ⟨s, rfl⟩
  | stop f => cases h

/-- The result is a next state that passes the check. -/
def goesOn (r : Result) (p : State → Bool) : Bool :=
  match r with
  | .next t => p t
  | .fault _ => false
  | .refused _ => false

theorem exists_next {r : Result} (p : State → Bool) (h : goesOn r p = true) : ∃ t, r = .next t ∧ p t = true := by
  cases r with
  | next t => exact ⟨t, rfl, h⟩
  | fault f => cases h
  | refused f => cases h

/-- In program execution with nothing between its accesses the CPU comes to one with its own state. -/
theorem reaches_alone {s : State} (a : Word) (h : s.proc = .run ∧ s.alone = true) : Reaches s a s :=
  ⟨h.1, between_alone a h.2⟩

/-- The CPU can come to a read that succeeds. -/
def CanRead (s : State) (z : Size) (a : Word) : Prop := ∃ x v u, Reaches s a x ∧ cpuRead x z a = .ok v u

/-- The CPU can come to a write that succeeds. -/
def CanWrite (s : State) (z : Size) (a v : Word) : Prop := ∃ x u, Reaches s a x ∧ cpuWrite x z a v = .ok () u

theorem canRead {s : State} {z : Size} {a : Word} (q : s.proc = .run ∧ s.alone = true)
    (h : passes (cpuRead s z a) (fun _ _ => true) = true) : CanRead s z a := by
  obtain ⟨v, u, hx, -⟩ := exists_ok _ h
  exact ⟨s, v, u, reaches_alone a q, hx⟩

theorem canWrite {s : State} {z : Size} {a v : Word} (q : s.proc = .run ∧ s.alone = true)
    (h : passes (cpuWrite s z a v) (fun _ _ => true) = true) : CanWrite s z a v := by
  obtain ⟨v, u, hx, -⟩ := exists_ok _ h
  exact ⟨s, u, reaches_alone a q, hx⟩

/-- A running machine: NOPs at H'1000, pointers into RAM, a stack, GBR in RAM, interrupts unmasked above level 3. -/
def idle : State :=
  ({ prog 0x1000 9 9 0x30 with gbr := 0xFFFFA200 }.setReg 0 4 |>.setReg 1 0xFFFF8000 |>.setReg 2 0xFFFFBFFC
    |>.setReg 15 0xFFFFB000)

/-- It is alone on its buses. -/
theorem idle_alone : idle.proc = .run ∧ idle.alone = true := by decide

/-- The same in a delay slot. -/
def inSlot (rte : Bool) : State := { idle with slot := some { branch := 0xFFE, target := 0x2000, prBefore := 0, rte :=
    rte } }

theorem test_witness_DecodeEncode :
    (Instr.movLStoreDisp 1 0 2).wellFormed = true ∧ (Instr.movLStoreDisp 15 15 15).wellFormed = true ∧
      (Instr.mova 255).wellFormed = true ∧ (Instr.bra 0x800).wellFormed = true := by decide

theorem test_witness_EncodeDecode :
    decode 0x0002 = .ok (.stcSr 0) ∧ decode 0xEFFF = .ok (.movImm 0xFF 15) := ⟨rfl, rfl⟩

theorem test_witness_RegisterLoads :
    CanRead idle .byte (idle.reg 1) ∧ CanRead idle .word (idle.reg 1) ∧ CanRead idle .long (idle.reg 1) ∧
      CanRead idle .byte (idle.reg 2 + BitVec.ofNat 32 3) ∧ CanRead idle .word (idle.reg 2 + BitVec.ofNat 32 (2 * 1)) ∧
      CanRead idle .long (idle.reg 1 + BitVec.ofNat 32 (4 * 15)) ∧ CanRead idle .byte (idle.reg 0 + idle.reg 1) ∧
      CanRead idle .word (idle.reg 0 + idle.reg 1) ∧ CanRead idle .long (idle.reg 0 + idle.reg 1) ∧
      CanRead idle .byte (idle.gbr + BitVec.ofNat 32 255) ∧
      CanRead idle .word (idle.gbr + BitVec.ofNat 32 (2 * 255)) ∧
      CanRead idle .long (idle.gbr + BitVec.ofNat 32 (4 * 255)) :=
  ⟨canRead idle_alone (by decide), canRead idle_alone (by decide), canRead idle_alone (by decide), canRead idle_alone
      (by decide), canRead idle_alone (by decide),
    canRead idle_alone (by decide), canRead idle_alone (by decide), canRead idle_alone (by decide), canRead idle_alone
        (by decide), canRead idle_alone (by decide),
    canRead idle_alone (by decide), canRead idle_alone (by decide)⟩

theorem test_witness_PcRelative :
    (idle.slot = none ∧ CanRead idle .word (idle.pc + 4 + BitVec.ofNat 32 (2 * 255)) ∧
      CanRead idle .long (((idle.pc + 4) >>> 2 <<< 2) + BitVec.ofNat 32 (4 * 255))) ∧ (inSlot false).slot ≠ none :=
  ⟨⟨by decide, canRead idle_alone (by decide), canRead idle_alone (by decide)⟩, by decide⟩

theorem test_witness_MoveStores :
    CanWrite idle .byte (idle.reg 2) 1 ∧ CanWrite idle .word (idle.reg 2) 1 ∧ CanWrite idle .long (idle.reg 2) 1 ∧
      CanWrite idle .byte (idle.reg 2 - 1) 1 ∧ CanWrite idle .word (idle.reg 2 - 2) 1 ∧
      CanWrite idle .long (idle.reg 2 - 4) 1 ∧ CanWrite idle .byte (idle.reg 1 + BitVec.ofNat 32 15) 1 ∧
      CanWrite idle .word (idle.reg 1 + BitVec.ofNat 32 (2 * 15)) 1 ∧
      CanWrite idle .long (idle.reg 1 + BitVec.ofNat 32 (4 * 15)) 1 ∧ CanWrite idle .byte (idle.reg 0 + idle.reg 1) 1 ∧
      CanWrite idle .word (idle.reg 0 + idle.reg 1) 1 ∧ CanWrite idle .long (idle.reg 0 + idle.reg 1) 1 ∧
      CanWrite idle .byte (idle.gbr + BitVec.ofNat 32 255) 1 ∧
      CanWrite idle .word (idle.gbr + BitVec.ofNat 32 (2 * 255)) 1 ∧
      CanWrite idle .long (idle.gbr + BitVec.ofNat 32 (4 * 255)) 1 :=
  ⟨canWrite idle_alone (by decide), canWrite idle_alone (by decide), canWrite idle_alone (by decide), canWrite
      idle_alone (by decide), canWrite idle_alone (by decide),
    canWrite idle_alone (by decide), canWrite idle_alone (by decide), canWrite idle_alone (by decide), canWrite
        idle_alone (by decide), canWrite idle_alone (by decide),
    canWrite idle_alone (by decide), canWrite idle_alone (by decide), canWrite idle_alone (by decide), canWrite
        idle_alone (by decide), canWrite idle_alone (by decide)⟩

theorem test_witness_PlainAccess :
    (idle.proc = .run ∧ idle.alone = true) ∧
    idle.plain .long 0 = true ∧ idle.plain .word 0x7FFFE = true ∧ idle.plainRam .long 0xFFFF8000 = true ∧
      idle.plainRam .long 0xFFFFBFFC = true ∧ idle.plainRam .word 0xFFFFBFFE = true ∧
      idle.plainRam .byte 0xFFFFBFFF = true := by decide

theorem test_witness_BigEndian :
    idle.plain .long 0x7FFFC = true ∧ idle.plain .word 0x7FFFE = true ∧ idle.plain .byte 0x7FFFF = true ∧
      idle.plainRam .long 0xFFFF8000 = true ∧ idle.plainRam .word 0xFFFFBFFE = true ∧
      idle.plainRam .byte 0xFFFFBFFF = true := by decide

theorem test_witness_AddressErrors :
    (0xFFFFA001#32).toNat % Size.word.bytes ≠ 0 ∧ (0xFFFFA002#32).toNat % Size.long.bytes ≠ 0 ∧
      idle.mode.singleChip = true ∧ 0x02000000 ≤ (0x02000000#32).toNat ∧ (0x07FFFFFF#32).toNat < 0x08000000 := by decide

/-- The CPU can come to a read that is an address error. -/
def CannotRead (s : State) (z : Size) (a : Word) : Prop := ∃ x u, Reaches s a x ∧ cpuRead x z a = .addressError u

/-- The CPU can come to a write that is an address error. -/
def CannotWrite (s : State) (z : Size) (a v : Word) : Prop := ∃ x u, Reaches s a x ∧ cpuWrite x z a v = .addressError u

theorem cannotRead {s : State} {z : Size} {a : Word} (q : s.proc = .run ∧ s.alone = true)
    (h : isAddressError (cpuRead s z a) = true) : CannotRead s z a := by
  obtain ⟨u, hx⟩ := exists_addressError h
  exact ⟨s, u, reaches_alone a q, hx⟩

theorem cannotWrite {s : State} {z : Size} {a v : Word} (q : s.proc = .run ∧ s.alone = true)
    (h : isAddressError (cpuWrite s z a v) = true) : CannotWrite s z a v := by
  obtain ⟨u, hx⟩ := exists_addressError h
  exact ⟨s, u, reaches_alone a q, hx⟩

/-- Both address registers point where every access is an address error: R1 at external space, R2 between longwords. -/
def astray : State := (idle.setReg 1 0x02000000).setReg 2 0xFFFFA002

theorem astray_alone : astray.proc = .run ∧ astray.alone = true := by decide

theorem test_witness_AddressErrorEntry :
    (CannotRead astray .byte (astray.reg 1) ∧ CannotRead astray .word (astray.reg 1) ∧
      CannotRead astray .long (astray.reg 2) ∧ CannotRead astray .byte (astray.reg 1 + BitVec.ofNat 32 15) ∧
      CannotRead astray .word (astray.reg 1 + BitVec.ofNat 32 (2 * 15)) ∧
      CannotRead astray .long (astray.reg 2 + BitVec.ofNat 32 (4 * 15)) ∧
      CannotRead astray .byte (astray.reg 0 + astray.reg 1) ∧ CannotRead astray .long (astray.reg 0 + astray.reg 2) ∧
      CannotRead { astray with gbr := 0x03FFFFF0 } .byte (0x03FFFFF0 + BitVec.ofNat 32 255)) ∧
    (astray.slot = none ∧ CannotRead { astray with pc := 0x01FFFFFC } .word (0x01FFFFFC + 4 + BitVec.ofNat 32 (2 * 0)) ∧
      CannotRead (astray.setReg 15 0xFFFFB002) .long ((astray.setReg 15 0xFFFFB002).reg 15)) ∧
    (∃ x a u y w, Reaches idle (idle.reg 1) x ∧ cpuRead x .long (idle.reg 1) = .ok a u ∧ Reaches u 0xFFFFA002 y ∧
      cpuRead y .long 0xFFFFA002 = .addressError w) ∧
    (CannotWrite astray .byte (astray.reg 1) 0 ∧ CannotWrite astray .word (astray.reg 1) 0 ∧
      CannotWrite astray .long (astray.reg 2) 0 ∧ CannotWrite astray .long (astray.reg 2 - 4) 0 ∧
      CannotWrite astray .long (astray.reg 0 + astray.reg 2) 0) ∧
    (CannotWrite idle .long 0x1002 0 ∧ misaligned .long 0x1002 = true ∧ idle.behind 0x1003 0x1003 = true ∧
      idle.behind 0x1003 0x1004 = false ∧ CannotWrite idle .word 0xFFFFE801 0 ∧ idle.behind 0xFFFFE801 0xFFFFE801 =
          false ∧
      CannotWrite { idle with mode := .mode2 } .word 0x04100001 0 ∧
      ({ idle with mode := .mode2 } : State).behind 0x04100001 0x04000001 = true) ∧
    (inSlot false).slot ≠ none ∧ CannotRead (inSlot false) .long 0xFFFFA002 ∧ CannotWrite (inSlot true) .long
        0xFFFFA002 0 := by
  refine ⟨⟨cannotRead astray_alone (by decide), cannotRead astray_alone (by decide), cannotRead astray_alone (by
      decide),
      cannotRead astray_alone (by decide), cannotRead astray_alone (by decide), cannotRead astray_alone (by decide),
      cannotRead astray_alone (by decide), cannotRead astray_alone (by decide), cannotRead (by decide) (by decide)⟩,
    ⟨by decide, cannotRead (by decide) (by decide), cannotRead (by decide) (by decide)⟩, ?_,
    ⟨cannotWrite astray_alone (by decide), cannotWrite astray_alone (by decide), cannotWrite astray_alone (by decide),
      cannotWrite astray_alone (by decide), cannotWrite astray_alone (by decide)⟩,
    ⟨cannotWrite idle_alone (by decide), by decide, by decide, by decide, cannotWrite idle_alone (by decide), by decide,
      cannotWrite (by decide) (by decide), by decide⟩,
    by decide, cannotRead (by decide) (by decide), cannotWrite (by decide) (by decide)⟩
  obtain ⟨a, u, h, g⟩ := exists_ok (x := cpuRead idle .long (idle.reg 1))
    (fun _ u => decide (u.proc = .run ∧ u.alone = true) && isAddressError (cpuRead u .long 0xFFFFA002)) (by decide)
  simp only [Bool.and_eq_true, decide_eq_true_eq] at g
  obtain ⟨w, k⟩ := exists_addressError g.2
  exact ⟨idle, a, u, u, w, reaches_alone _ idle_alone, h, reaches_alone _ g.1, k⟩

theorem test_witness_AddressMap :
    resetPart.rom = .kb512 ∧ resetPart.ram = .kb16 ∧
    (∀ m ∈ [Mode.mode0, .mode3], m ∈ [Mode.mode0, .mode2, .mode3, .mode5, .mode6, .mode7]) ∧
    region resetPart .mode0 0x03FFFFFF = .cs0 ∧ region resetPart .mode3 0x7FFFF = .rom ∧
    region resetPart .mode3 0x02000000 = .singleChipExternal ∧ region resetPart .mode5 0x07FFFFFF = .cs1 := by decide

/-- Two reads, one after the other, both of which succeed. -/
def CanReadTwice (s : State) (z : Size) (a b : Word) : Prop :=
  ∃ x v u y w t, Reaches s a x ∧ cpuRead x z a = .ok v u ∧ Reaches u b y ∧ cpuRead y z b = .ok w t

theorem canReadTwice {s : State} {z : Size} {a b : Word} (q : s.proc = .run ∧ s.alone = true)
    (h : passes (cpuRead s z a) (fun _ u => decide (u.proc = .run ∧ u.alone = true) &&
      passes (cpuRead u z b) (fun _ _ => true)) = true) : CanReadTwice s z a b := by
  obtain ⟨v, u, hx, g⟩ := exists_ok _ h
  simp only [Bool.and_eq_true, decide_eq_true_eq] at g
  obtain ⟨w, t, hy, -⟩ := exists_ok _ g.2
  exact ⟨s, v, u, u, w, t, reaches_alone a q, hx, reaches_alone b g.1, hy⟩

theorem test_witness_MultiplyAccumulate :
    CanReadTwice idle .long (idle.reg 1) (idle.reg 1 + BitVec.ofNat 32 Size.long.bytes) ∧
    CanReadTwice idle .word (idle.reg 1) (idle.reg 2) ∧
    idle.flagS = false ∧ ({ idle with sr := 0x32 } : State).flagS = true :=
  ⟨canReadTwice idle_alone (by decide), canReadTwice idle_alone (by decide), by decide, by decide⟩

theorem test_witness_LogicBytes :
    ∃ x v u w, Reaches idle (idle.reg 0 + idle.gbr) x ∧ cpuRead x .byte (idle.reg 0 + idle.gbr) = .ok v u ∧
      Reaches u (idle.reg 0 + idle.gbr) u ∧ cpuWrite u .byte (idle.reg 0 + idle.gbr) (v ||| 0x80) = .ok () w := by
  obtain ⟨v, u, h, g⟩ := exists_ok (x := cpuRead idle .byte (idle.reg 0 + idle.gbr))
    (fun v u => decide (u.proc = .run ∧ u.alone = true) &&
      passes (cpuWrite u .byte (idle.reg 0 + idle.gbr) (v ||| 0x80)) (fun _ _ => true)) (by decide)
  simp only [Bool.and_eq_true, decide_eq_true_eq] at g
  obtain ⟨_, w, k, -⟩ := exists_ok _ g.2
  exact ⟨idle, v, u, w, reaches_alone _ idle_alone, h, reaches_alone _ g.1, k⟩

/-- The debugger is connected, and `inner` falls between the accesses of the instruction: its write between those of
    OR.B
is lost, and none comes between those of TAS.B (rules R113, R301, R309). -/
def monitored (w : Half) (inner : List Event) : State :=
  { prog 0x1000 w 9 0xF0 with
    part := { resetPart with aud := true }
    pins := { Pins.reset with audmd := true }
    power := { Power.reset with stbcr5 := 0x01, stbcr6 := 0x80 }
    gbr := 0xFFFFA000
    inner := inner }.setReg 1 0xFFFFA000 |>.store .byte 0xFFFFA000 0x01

theorem test_orB_lostUpdate :
    after (monitored 0xCF10 [.cpu, .audWrite 0xFFFFA000 .byte 0x80]) (fun t => t.byteAt 0xFFFFA000 == 0x11) = true := by
  decide

theorem test_tasB_indivisible :
    after (monitored 0x411B [.audWrite 0xFFFFA000 .byte 0])
      (fun t => t.flagT && t.byteAt 0xFFFFA000 == 0x80) = true := by decide

/-- The external master comes between the two accesses of OR.B, which waits for BREQ, and not between those of TAS.B
(rule R551). -/
theorem test_master_inside_instruction :
    after (monitored 0xCF10 [.cpu, .pin .breq false, .cpu, .external true 0 (some 0x5A), .pin .breq true, .cpu])
      (fun t => t.byteAt 0x04000000 == 0x5A && t.byteAt 0xFFFFA000 == 0x11 && t.inner.isEmpty) = true ∧
    after (monitored 0x411B [.cpu, .pin .breq false, .external true 0 (some 0x5A)])
      (fun t => decide (t.inner.length = 2) && t.pins.breq && t.mem.length == (monitored 0x411B []).mem.length) = true
          := by decide

/-- A master that is left with the bus gives it back, and BREQ low is accepted in single-chip mode (rules R36, R551). -/
theorem test_master_withdraws :
    after (monitored 0xCF10 [.cpu, .pin .breq false, .cpu, .external true 0 (some 0x5A)])
      (fun t => t.pins.breq && !t.bsc.released && t.byteAt 0x04000000 == 0x5A && t.byteAt 0xFFFFA000 == 0x11) = true ∧
    after { idle with agenda := [.pin .breq false] } (fun t => t.bsc.released) = true := by decide

theorem test_reset_inside_instruction :
    after (monitored 0xCF10 [.cpu, .pin .res false])
      (fun t => decide (t.proc = .resetHeld .powerOn) && t.byteAt 0xFFFFA000 == 0x01) = true := by decide

theorem test_witness_Branches :
    idle.slot = none ∧ idle.flagT = false ∧ ({ idle with sr := 0x31 } : State).slot = none ∧
      ({ idle with sr := 0x31 } : State).flagT = true := by decide

theorem test_witness_SlotIllegal :
    (Instr.bra 0).slotIllegal = true ∧
      (inSlot false).slot = some { branch := 0xFFE, target := 0x2000, prBefore := 0, rte := false } ∧
      (Instr.ldcSr 0).slotIllegal = true ∧
      (inSlot true).slot = some { branch := 0xFFE, target := 0x2000, prBefore := 0, rte := true } := by decide

theorem test_witness_LoadControlFromMemory : idle.slot = none ∧ CanRead idle .long (idle.reg 2) :=
  ⟨by decide, canRead idle_alone (by decide)⟩

theorem test_witness_StoreControlToMemory :
    CanWrite idle .long (idle.reg 15 - 4) idle.sr ∧ CanWrite idle .long (idle.reg 15 - 4) idle.pr :=
  ⟨canWrite idle_alone (by decide), canWrite idle_alone (by decide)⟩

/-- A machine whose STBCR1 and STBCR6 are as given, ready for every low-power mode. -/
def sleepy (stbcr1 stbcr6 : Byte) : State :=
  { idle with power := { Power.reset with stbcr1 := stbcr1, stbcr6 := stbcr6 } }

theorem test_witness_Sleep :
    ((sleepy 0 0).bsc.released = false ∧ bitOf (sleepy 0 0).power.stbcr1 7 = false ∧ (sleepy 0 0).sleepMeasure = true) ∧
    ((sleepy 0x80 2).bsc.released = false ∧ bitOf (sleepy 0x80 2).power.stbcr1 7 = true ∧
      bitOf (sleepy 0x80 2).power.stbcr6 1 = true ∧ (sleepy 0x80 2).sleepMeasure = true ∧
      (sleepy 0x80 2).softwareStandbyReady = true) ∧
    ((sleepy 0x80 0).bsc.released = false ∧ bitOf (sleepy 0x80 0).power.stbcr1 7 = true ∧
      bitOf (sleepy 0x80 0).power.stbcr6 1 = false ∧ (sleepy 0x80 0).standbyReady = true) ∧
    ({ sleepy 0 0 with intc := { Intc.reset with nmiPending := true } } : State).sleepMeasure = false ∧
    ({ sleepy 0x80 2 with wdt := { Wdt.reset with wtcnt := 1 } } : State).softwareStandbyReady = false ∧
    ({ sleepy 0x80 0 with wdt := { Wdt.reset with wtcsr := 0x80 } } : State).standbyReady = false ∧
    ({ idle with bsc := { Bsc.reset with released := true } } : State).bsc.released = true ∧
    (sleepy 0x80 0).bsc.extWrite = none ∧ (0x2000FFF < (sleepy 0x80 0).part.ramBase ∧
      ∀ w, (some { cell := 0x2001000, size := .long, old := 0 } : Option ExtWrite) = some w →
        0x2000FFF < w.cell ∨ w.cell + w.size.bytes ≤ 0x2000FFF) :=
  ⟨by decide, by decide, by decide, by decide, by decide, by decide, by decide, by decide, by decide,
    fun w h => by cases h; exact .inl (by decide)⟩

theorem test_witness_Trap :
    idle.slot = none ∧ idle.canEnter (32#8).toNat = true ∧ idle.canEnter (0#8).toNat = true ∧
      idle.canEnter (255#8).toNat = true := by decide

/-- The slot of a branch at H'FFE. -/
def branchSlot (rte : Bool) : DelaySlot := { branch := 0xFFE, target := 0x2000, prBefore := 0x77, rte := rte }

/-- A stack pointer or a vector base that is no multiple of 4. -/
def crooked (sp vbr : Word) : State := { idle.setReg 15 sp with vbr := vbr }

/-- A pc in RAM's last halfword plus 2, an odd pc, and one in external space of a single-chip mode. -/
def fetchLost (a : Word) (slot : Option DelaySlot) : State := { idle with pc := a, slot := slot }

theorem test_witness_ExceptionEntry :
    (idle.canEnter 9 = true ∧ idle.canEnter 254 = true) ∧
    ((crooked 0xFFFF8011 0).canEnterAstray 4 9 = true ∧ (crooked 0xFFFF8011 0).canEnterAstray 4 64 = true ∧
      (crooked 0xFFFFC003 0).canEnterAstray 4 9 = true ∧ (crooked 0xFFFFC003 0).canEnterAstray 2 9 = true) ∧
    ((crooked 0xFFFFB000 1).stackTakes 2 = true ∧ (crooked 0xFFFFB002 0xFFFFA002).stackTakes 2 = true ∧
      misaligned .long (crooked 0xFFFFB000 1).vbr = true ∧ misaligned .long (crooked 0xFFFFB002 0xFFFFA002).vbr =
          true) ∧
    ((fetchLost 0xFFFFC000 none).cpuNext = true ∧ (fetchLost 0xFFFFC000 none).fetchForbidden 0xFFFFC000 = true ∧
      (fetchLost 0x1001 none).cpuNext = true ∧ (fetchLost 0x1001 none).fetchForbidden 0x1001 = true ∧
      (fetchLost 0x02000000 none).cpuNext = true ∧ (fetchLost 0x02000000 none).fetchForbidden 0x02000000 = true) ∧
    (∀ b, (fetchLost 0xFFFFC000 (some (branchSlot b))).cpuNext = true ∧
      (fetchLost 0xFFFFC000 (some (branchSlot b))).fetchForbidden 0xFFFFC000 = true) :=
  ⟨by decide, by decide, by decide, by decide, by decide⟩

/-- The fetch of a slot from the peripheral area is the branch's address error (rule R441). -/
theorem test_slot_fetch_error :
    after ((fetchLost 0xFFFFC000 (some (branchSlot false))).store
        .long 0x24 0x2400)
      (fun t => t.pc == 0x2400 && t.pr == 0x77 && t.stored .long 0xFFFFAFF8 == 0xFFE) = true := by decide

theorem test_vbr_misaligned : stops { crooked 0xFFFFB000 2 with mem := Memory.putList [] 0x1000 [0xC3, 0x20] }
    .vbrMisaligned = true := by decide

theorem test_witness_ReturnFromException :
    idle.slot = none ∧ (idle.proc = .run ∧ idle.alone = true) ∧ idle.plain .long (idle.reg 15) = true ∧
      idle.plain .long (idle.reg 15 + 4) = true := by decide

theorem test_witness_TrapThenReturn :
    ∃ t, exec (.trapa 32) idle = .next t ∧ idle.slot = none ∧ idle.srOk = true ∧
      idle.canEnter (32#8).toNat = true ∧ t.slot = none ∧ t.proc = .run ∧ t.alone = true ∧
      t.plain .long (t.reg 15) = true ∧ t.plain .long (t.reg 15 + 4) = true := by
  obtain ⟨t, h, g⟩ := exists_next (r := exec (.trapa 32) idle)
    (fun t => decide (t.slot = none ∧ t.proc = .run ∧ t.alone = true) && t.plain .long (t.reg 15) &&
      t.plain .long (t.reg 15 + 4)) (by decide)
  simp only [Bool.and_eq_true, decide_eq_true_eq] at g
  exact ⟨t, h, by decide, by decide, by decide, g.1.1.1, g.1.1.2.1, g.1.1.2.2, g.1.2, g.2⟩

/-- The reset state with a manual reset's exception sequence next. -/
def manualEntry : State := { State.reset with proc := .resetEntry .manual }

theorem test_witness_ResetSequence :
    (State.reset.cpuTurn = true ∧ State.reset.proc = .resetEntry .powerOn ∧ State.reset.bsc.released = false ∧ ∃ a u b
        w,
        cpuRead State.reset.atCpuStep .long (BitVec.ofNat 32 (4 * ResetKind.powerOn.vector)) = .ok a u ∧
        cpuRead u .long (BitVec.ofNat 32 (4 * ResetKind.powerOn.vector + 4)) = .ok b w) ∧
    (manualEntry.cpuTurn = true ∧ manualEntry.proc = .resetEntry .manual ∧ manualEntry.bsc.released = false ∧ ∃ a u b w,
        cpuRead manualEntry.atCpuStep .long (BitVec.ofNat 32 (4 * ResetKind.manual.vector)) = .ok a u ∧
        cpuRead u .long (BitVec.ofNat 32 (4 * ResetKind.manual.vector + 4)) = .ok b w) := by
  refine ⟨⟨by decide, by decide, by decide, ?_⟩, ⟨by decide, by decide, by decide, ?_⟩⟩
  · obtain ⟨a, u, h, g⟩ := exists_ok
      (x := cpuRead State.reset.atCpuStep .long (BitVec.ofNat 32 (4 * ResetKind.powerOn.vector)))
      (fun _ u => passes (cpuRead u .long (BitVec.ofNat 32 (4 * ResetKind.powerOn.vector + 4))) (fun _ _ => true))
      (by decide)
    obtain ⟨b, w, k, -⟩ := exists_ok _ g
    exact ⟨a, u, b, w, h, k⟩
  · obtain ⟨a, u, h, g⟩ := exists_ok
      (x := cpuRead manualEntry.atCpuStep .long (BitVec.ofNat 32 (4 * ResetKind.manual.vector)))
      (fun _ u => passes (cpuRead u .long (BitVec.ofNat 32 (4 * ResetKind.manual.vector + 4))) (fun _ _ => true))
      (by decide)
    obtain ⟨b, w, k, -⟩ := exists_ok _ g
    exact ⟨a, u, b, w, h, k⟩

/-- A fetch at pc whose word is as said. -/
def fetches (s t : State) (w : Half) : Bool := passes (fetchHalf s t.pc) (fun v _ => v == w)

theorem exists_fetch {s t : State} {w : Half} (h : fetches s t w = true) : ∃ u, fetchHalf s t.pc = .ok w u := by
  obtain ⟨v, u, hx, hv⟩ := exists_ok _ h
  exact ⟨u, by rw [hx, eq_of_beq hv]⟩

/-- Channel A is set for an address. -/
def watching (bbr : Half) (bar brcr : Word) : State :=
  { idle with
    power := { Power.reset with stbcr5 := 0x02 }
    ubc := { Ubc.reset with regs := { a := { UbcChannel.reset with bar := bar, bbr := bbr }, b := .reset, brcr := brcr
        } } }

/-- A user break before execution is set at H'1000. -/
def breaking : State := watching 0x0054 0x1000 0

/-- A user break after execution is set there. -/
def breakingAfter : State := watching 0x0054 0x1000 0x400

/-- A user break on data is set at H'FFFFA000. -/
def breakingData : State := watching 0x006C 0xFFFFA000 0

/-- The UBC runs with a channel that this instruction and the next do not match, and a break of an earlier one is
    held. -/
def watchingElsewhere (pending : Bool) : State :=
  { watching 0x0054 0x2000 0 with ubc := { (watching 0x0054 0x2000 0).ubc with live := { UbcMatch.reset with pending
      := pending } } }

theorem test_witness_StepRunsDecoded :
    (idle.cpuNext = true ∧ idle.slot = none ∧ intcSelect idle.atBoundary = none ∧ idle.dtc.addressError = false ∧
      (∃ u, fetchHalf idle.atBoundary idle.pc = .ok 0x0009 u) ∧ decode 0x0009 = .ok .nop) ∧
    ((watchingElsewhere false).cpuNext = true ∧ (watchingElsewhere false).ubcQuiet = false ∧
      (watchingElsewhere false).slot = none ∧ intcSelect (watchingElsewhere false).atBoundary = none ∧
      (∃ u, fetchHalf (watchingElsewhere false).atBoundary (watchingElsewhere false).pc = .ok 0x0009 u)) ∧
    ((inSlot false).cpuNext = true ∧ (inSlot false).slot ≠ none ∧
      (∃ u, fetchHalf (inSlot false).atCpuStep (inSlot false).pc = .ok 0x0009 u)) :=
  ⟨⟨by decide, by decide, by decide, by decide, exists_fetch (t := idle) (by decide), rfl⟩,
    ⟨by decide, by decide, by decide, by decide, exists_fetch (t := watchingElsewhere false) (by decide)⟩,
    ⟨by decide, by decide, exists_fetch (t := inSlot false) (by decide)⟩⟩

/-- IRQ0, level sensed, low, with level 5. -/
def irq0 : State :=
  { idle with intc := { Intc.reset with ipra := 0x5000 }, pins := { Pins.reset with irq := 0xE } }

/-- The same after an interrupt-disabling instruction. -/
def irq0Blocked : State := { irq0 with irqBlock := true }

/-- A user break is held after an interrupt-disabling instruction, with the UBC running. -/
def breakBlocked : State := { watchingElsewhere true with irqBlock := true }

theorem test_witness_InterruptsBlocked :
    (irq0Blocked.cpuNext = true ∧ irq0Blocked.slot = none ∧ irq0Blocked.irqBlock = true ∧
      irq0Blocked.dtc.addressError = false ∧ intcSelect irq0Blocked = some (64, 5) ∧
      (∃ u, fetchHalf irq0Blocked.atBoundary irq0Blocked.pc = .ok 0x0009 u)) ∧
    (breakBlocked.cpuNext = true ∧ breakBlocked.ubcOn = true ∧ breakBlocked.slot = none ∧ breakBlocked.irqBlock = true ∧
      breakBlocked.dtc.addressError = false ∧ intcSelect breakBlocked = some (12, 15) ∧
      (∃ u, fetchHalf breakBlocked.atBoundary breakBlocked.pc = .ok 0x0009 u)) :=
  ⟨⟨by decide, by decide, by decide, by decide, by decide, exists_fetch (t := irq0Blocked) (by decide)⟩,
    ⟨by decide, by decide, by decide, by decide, by decide, by decide, exists_fetch (t := breakBlocked) (by decide)⟩⟩

/-- A DTC address error waits beside IRQ0, with or without the interrupt block. -/
def dtcErrs (block : Bool) : State :=
  { irq0 with irqBlock := block, dtc := { Dtc.reset with addressError := true, err := true } }

theorem test_witness_InterruptAccepted :
    (irq0.cpuNext = true ∧ irq0.slot = none ∧ irq0.irqBlock = false ∧ intcSelect irq0.atBoundary = some (64, 5) ∧
      irq0.dtc.addressError = false ∧ (∃ u, fetchHalf irq0.atBoundary irq0.pc = .ok 0x0009 u) ∧
      decode 0x0009 = .ok .nop) ∧
    ((watchingElsewhere true).cpuNext = true ∧ (watchingElsewhere true).ubcOn = true ∧
      (watchingElsewhere true).irqBlock = false ∧ intcSelect (watchingElsewhere true).atBoundary = some (12, 15) ∧
      (∃ u, fetchHalf (watchingElsewhere true).atBoundary (watchingElsewhere true).pc = .ok 0x0009 u)) ∧
    (∀ b, (dtcErrs b).cpuNext = true ∧ (dtcErrs b).slot = none ∧ (dtcErrs b).dtc.addressError = true ∧
      (dtcErrs b).atBoundary.ubc.live.pending = false ∧
      (∃ u, fetchHalf (dtcErrs b).atBoundary (dtcErrs b).pc = .ok 0x0009 u)) := by
  refine ⟨⟨by decide, by decide, by decide, by decide, by decide, exists_fetch (t := irq0) (by decide), rfl⟩,
    ⟨by decide, by decide, by decide, by decide, exists_fetch (t := watchingElsewhere true) (by decide)⟩, fun b => ?_⟩
  cases b
  · exact ⟨by decide, by decide, by decide, by decide, exists_fetch (t := dtcErrs false) (by decide)⟩
  · exact ⟨by decide, by decide, by decide, by decide, exists_fetch (t := dtcErrs true) (by decide)⟩

/-- The break that the instruction before requested is taken with the UBC running (rules R432, R513). -/
theorem test_break_taken :
    after ((watchingElsewhere true).store .long 0x30 0x2C00)
      (fun t => t.pc == 0x2C00 && t.stored .long 0xFFFFAFF8 == 0x1000 && t.sr == 0xF0 && !t.ubc.live.pending) = true
          := by
  decide

/-- The DTC's address error comes before IRQ0, whose mask it leaves (rule R444). -/
theorem test_dtc_address_error_accepted :
    after ((dtcErrs true).store .long 0x28 0x2A00)
      (fun t => t.pc == 0x2A00 && t.stored .long 0xFFFFAFF8 == 0x1000 && t.sr == 0x30 && !t.dtc.addressError) = true
          := by
  decide

/-- A word at pc, in the slot of a branch or in none. -/
def undefinedWord (w : Half) (slot : Option DelaySlot) : State := { prog 0x1000 w 9 0 with slot := slot }

theorem test_witness_UndefinedCodeStep :
    (∀ w ∈ [(0xF000 : Half), 0xFFFF], decode w = .error .illegalCode ∧
      ((undefinedWord w none).cpuNext = true ∧ (∃ u, fetchHalf (undefinedWord w none).atBoundary 0x1000 = .ok w u)) ∧
      (∀ b, (undefinedWord w (some (branchSlot b))).cpuNext = true ∧
        (∃ u, fetchHalf (undefinedWord w (some (branchSlot b))).atCpuStep 0x1000 = .ok w u))) ∧
    (decode 0x0000 = .error .undefinedCode ∧ (undefinedWord 0 none).cpuNext = true ∧
      (∃ u, fetchHalf (undefinedWord 0 none).atBoundary 0x1000 = .ok 0 u) ∧
      (undefinedWord 0 (some (branchSlot false))).cpuNext = true ∧
      (∃ u, fetchHalf (undefinedWord 0 (some (branchSlot false))).atCpuStep 0x1000 = .ok 0 u)) := by
  refine ⟨fun w hw => ?_, rfl, by decide, exists_fetch (t := undefinedWord 0 none) (by decide), by decide,
    exists_fetch (t := undefinedWord 0 none) (by decide)⟩
  simp only [List.mem_cons, List.not_mem_nil, or_false] at hw
  rcases hw with rfl | rfl <;>
    exact ⟨rfl, ⟨by decide, exists_fetch (t := undefinedWord 0 none) (by decide)⟩, fun b => by
      cases b <;> exact ⟨by decide, exists_fetch (t := undefinedWord 0 none) (by decide)⟩⟩

/-- An undefined code in a delay slot is a slot illegal instruction (rule R451). -/
theorem test_undefined_in_slot :
    after (((undefinedWord 0xF123 (some (branchSlot false))).setReg 15 0xFFFFB000).store .long 0x18 0x2600)
      (fun t => t.pc == 0x2600 && t.pr == 0x77 && t.stored .long 0xFFFFAFF8 == 0xFFE) = true := by decide

theorem test_witness_UserBreaks :
    (breaking.ubcOn = true ∧ breaking.ubc.lag = [] ∧ breaking.ubc.regs.a.bamr = 0 ∧ breaking.ubc.regs.b.bbr = 0 ∧
      breaking.cpuTurn = true ∧ breaking.proc = .run ∧ breaking.bsc.released = false ∧ breaking.slot = none ∧
      bitOf breaking.pc 0 = false ∧ breaking.ubc.regs.a.bbr = 0x0054 ∧
      breaking.ubc.regs.a.bar = breaking.pc ∧ breaking.ubc.regs.brcr = 0 ∧ breaking.irqBlock = false ∧
      breaking.mask < 15) ∧
    (breakingAfter.ubcOn = true ∧ breakingAfter.cpuTurn = true ∧ breakingAfter.ubc.regs.a.bar = breakingAfter.pc ∧
      breakingAfter.ubc.regs.brcr = 0x400 ∧ intcSelect breakingAfter.atBoundary = none ∧
      breakingAfter.dtc.addressError = false ∧ (∃ u, fetchHalf breakingAfter.atBoundary breakingAfter.pc = .ok 0x0009
          u) ∧ decode 0x0009 = .ok .nop) ∧
    (breakingData.ubcOn = true ∧ breakingData.ubc.regs.a.bbr = 0x006C ∧ breakingData.ubc.regs.brcr = 0 ∧
      breakingData.plainRam .long 0xFFFFA000 = true ∧ breakingData.ubc.regs.a.bar = 0xFFFFA000 ∧
      breakingData.plain .byte 0xFFFFA004 = true ∧ breakingData.ubc.regs.a.bar >>> 2 ≠ (0xFFFFA004 : Word) >>> 2) :=
  ⟨by decide, ⟨by decide, by decide, by decide, by decide, by decide, by decide,
    exists_fetch (t := breakingAfter) (by decide), rfl⟩, by decide⟩

theorem test_break_afterExecution :
    after breakingAfter (fun t => t.pc == 0x1002 && t.ubc.live.pending && t.ubc.live.ca) = true := by decide

/-- Each match of channel B counts, also before channel A has matched (rule R520). -/
theorem test_betr_counts :
    let s : State := { breaking with ubc := { breaking.ubc with live := { UbcMatch.reset with betr := 5 } } }
    ((ubcMet { s.ubc.regs with brcr := 0x009 } false false false false true s).2.ubc.live.betr == 4) = true := by decide

theorem test_break_data :
    after { breakingData.setReg 1 0xFFFFA000 with pc := 0x1100, mem := [(0x1100, 0x62), (0x1101, 0x12)] }
      (fun t => t.pc == 0x1102 && t.ubc.live.pending && t.ubc.live.ca) = true := by decide

theorem test_user_break :
    after (breaking.store .long 0x30 0x2C00) (fun t => t.pc == 0x2C00 && t.stored .long 0xFFFFAFF8 == 0x1000 &&
      t.sr == 0xF0 && t.ubc.live.ca) = true := by decide

theorem test_witness_CpuStopped :
    (∀ p ∈ [Proc.sleep, .standby true, .deep, .hardware, .resetHeld .manual],
      ({ idle with proc := p } : State).cpuTurn = true) ∧
      ({ idle with bsc := { Bsc.reset with released := true } } : State).cpuTurn = true ∧
      (({ idle with bsc := { Bsc.reset with released := true } } : State).proc = .run ∧
        ({ idle with bsc := { Bsc.reset with released := true } } : State).bsc.released = true) ∧
      ({ manualEntry with bsc := { Bsc.reset with released := true } } : State).cpuTurn = true := by decide

/-- Three steps with nothing decided by the environment: the CPU, the DTC and the peripheral clock, then the CPU
    again. -/
theorem test_turns :
    after idle (fun t => decide (t.turn = .dtc) && after t (fun u => decide (u.turn = .ptick) &&
      after u (fun w => decide (w.turn = .cpu) && w.pc == 0x1002))) = true := by decide

theorem test_witness_StepKeepsInvariant : ∃ t, step idle = .next t ∧ idle.inv = true := by
  obtain ⟨t, h, -⟩ := exists_next (r := step idle) (fun _ => true) (by decide)
  exact ⟨t, h, by decide⟩

theorem test_witness_OnlyTheseWriteFlags :
    (∃ t, exec (.add 1 2) idle = .next t ∧ idle.proc = .run ∧ t.proc = .run ∧ Instr.writesT (.add 1 2) = false ∧
      Instr.writesSr (.add 1 2) = false ∧ Instr.writesQ (.add 1 2) = false ∧ Instr.writesM (.add 1 2) = false) ∧
    (∃ t, exec .sleep idle = .next t ∧ t.proc ≠ .deep) := by
  obtain ⟨t, h, f⟩ := exists_next (r := exec (.add 1 2) idle) (fun t => decide (t.proc = .run)) (by decide)
  obtain ⟨u, k, g⟩ := exists_next (r := exec .sleep idle) (fun u => decide (u.proc ≠ .deep)) (by decide)
  exact ⟨⟨t, h, by decide, of_decide_eq_true f, by decide⟩, ⟨u, k, of_decide_eq_true g⟩⟩

theorem test_witness_OnlyTheseWriteSpecials :
    (∃ t, exec (.add 1 2) idle = .next t ∧ idle.proc = .run ∧ t.proc = .run ∧ Instr.writes .pr (.add 1 2) = false ∧
      idle.slot = none) ∧
    (∃ t, exec (.add 1 2) (inSlot false) = .next t ∧ (inSlot false).proc = .run ∧ t.proc = .run ∧
      Instr.writes .gbr (.add 1 2) = false) := by
  obtain ⟨t, h, f⟩ := exists_next (r := exec (.add 1 2) idle) (fun t => decide (t.proc = .run)) (by decide)
  obtain ⟨u, k, g⟩ := exists_next (r := exec (.add 1 2) (inSlot false)) (fun t => decide (t.proc = .run)) (by decide)
  exact ⟨⟨t, h, by decide, of_decide_eq_true f, by decide, by decide⟩,
    ⟨u, k, by decide, of_decide_eq_true g, by decide⟩⟩

/-- RES is held low with the pins of mode 2, and goes high. -/
def resRises : State :=
  { idle with proc := .resetHeld .powerOn, pins := { Pins.reset with res := false, md0 := false },
              agenda := [.pin .res true] }

theorem test_witness_ModeLatchedAtReset : ∃ t, step resRises = .next t ∧ t.mode ≠ resRises.mode := by
  obtain ⟨t, h, g⟩ := exists_next (r := step resRises) (fun t => decide (t.mode ≠ resRises.mode)) (by decide)
  exact ⟨t, h, of_decide_eq_true g⟩

/-- The DTC reads the vector of CMI_0. -/
def transferring : State :=
  { idle.store .long 0xFFFFA6E0 0xFFFFB000 with
    power := { Power.reset with stbcr2 := 0x28, stbcr4 := 0xDF }
    dtc := { Dtc.reset with
      dtcvbr := 0xFFFFA000
      activity := some { vec := 184, base := 0, info := DtcInfo.reset, phase := .vector, chained := 0, zero := false,
                         stopping := false, hold := .free, touched := false } }
    agenda := [.dtc true] }

/-- The debugger's access is next. -/
def debugging (e : Event) : State := { monitored 9 [] with agenda := [e] }

/-- The external master is next, with the bus or without, at the last byte of CS1's device. -/
def mastering (released : Bool) (v : Option Byte) : State :=
  { idle with bsc := { idle.bsc with released := released }, agenda := [.external true 0xFFFFF v] }

/-- The external master writes a device while it has the bus, and at no other time; it reads without a change (rule
    R130). -/
theorem test_external_master :
    after (mastering true (some 0x5A)) (fun t => t.byteAt 0x040FFFFF == 0x5A && t.mem.length == idle.mem.length + 1) =
        true ∧
    after (mastering false (some 0x5A)) (fun t => t.mem == idle.mem) = true ∧
    after (mastering true none) (fun t => t.mem == idle.mem) = true := by decide

theorem test_witness_AgentsLeaveTheCpu :
    (∃ t, step transferring = .next t ∧ transferring.proc = .run ∧ t.proc = .run ∧
      transferring.agenda = .dtc true :: [] ∧ t.dtc ≠ transferring.dtc) ∧
    (∃ t, step { idle with turn := .ptick } = .next t ∧ t.proc = .run) ∧
    ((debugging (.audWrite 0xFFFFA000 .byte 0x55)).audMayAccess = true ∧
      modeRuns (debugging (.audWrite 0xFFFFA000 .byte 0x55)).mode = true ∧
      (debugging (.audWrite 0xFFFFA000 .byte 0x55)).plainRam .byte 0xFFFFA000 = true ∧
      misaligned .word 0xFFFFA001 = true) ∧
    (modeRuns (mastering true (some 0x5A)).mode = true ∧ (mastering true (some 0x5A)).bsc.released = true ∧
      (mastering true (some 0x5A)).agenda = .external true 0xFFFFF (some 0x5A) :: [] ∧
      (mastering false (some 0x5A)).bsc.released = false) ∧
    (idle.proc = .run ∧ idle.dtcHold = .free) := by
  obtain ⟨t, h, g⟩ := exists_next (r := step transferring)
    (fun t => decide (t.proc = .run ∧ t.dtc ≠ transferring.dtc)) (by decide)
  obtain ⟨u, k, f⟩ := exists_next (r := step { idle with turn := .ptick }) (fun t => decide (t.proc = .run)) (by decide)
  have g := of_decide_eq_true g
  exact ⟨⟨t, h, by decide, g.1, rfl, g.2⟩, ⟨u, k, of_decide_eq_true f⟩, by decide, by decide, by decide⟩

/-- Transfer information in external space of single-chip mode is the DTC's address error (rules R444, R576). -/
theorem test_dtc_information_address_error :
    after { transferring with
        dtc := { transferring.dtc with activity := transferring.dtc.activity.map (fun a =>
          { a with phase := .info 0, base := 0x02000000 }) } }
      (fun t => t.dtc.err && t.dtc.addressError && t.dtc.activity.isNone) = true := by decide

/-- An NMI at a point where the DTC has released the bus stops the activation there (rule R576). -/
theorem test_dtc_nmi_at_release :
    after { transferring with
        intc := { Intc.reset with nmie := true }, pins := { Pins.reset with nmi := false }, agenda := [.pin .nmi true]
        dtc := { transferring.dtc with activity := transferring.dtc.activity.map (fun a => { a with phase := .info 0
            }) } }
      (fun t => t.dtc.activity.isNone && t.intc.nmiPending) = true := by decide

/-- What the debugger writes to RAMCR is uncertain for one instruction of the CPU (rule R690). -/
theorem test_debugger_ramcr_window :
    after (debugging (.audWrite 0xFFFFE880 .byte 0x10)) (fun t => decide (t.windows.ramcr = 1)) = true := by decide

theorem test_debugger_write :
    after (debugging (.audWrite 0xFFFFA000 .byte 0x55)) (fun t => t.byteAt 0xFFFFA000 == 0x55 && t.pc == 0x1000) =
        true := by
  decide

theorem test_witness_ModuleRegisters :
    bitOf (monitored 9 []).power.stbcr5 1 = false ∧
      (bitOf (monitored 9 []).power.stbcr6 7 = true ∧ (monitored 9 []).pins.audrst = true) ∧
      (monitored 9 []).ubc.regs.pcte = false ∧ bitOf (monitored 9 []).aud.aucsr 0 = false ∧
      ({ monitored 9 [] with ubc := { Ubc.reset with regs := { UbcRegs.reset with brcr := 0x800 } } } :
          State).ubc.regs.pcte
        = true ∧ bitOf (1 : Word) 0 = true ∧ bitOf (1 : Word) 7 = false ∧ bitOf idle.power.stbcr6 7 = false := by decide

/-- Two requests: IRQ1 of level 5, then CMI_0 of level 5. -/
def twoRequests : State :=
  { idle with
    intc := { Intc.reset with ipra := 0x0500, iprj := 0x5000 }
    pins := { Pins.reset with irq := 0xD }
    power := { Power.reset with stbcr4 := 0xDF }
    cmt := { Cmt.reset with ch0 := { CmtChannel.reset with cmcsr := 0x00C0 } } }

theorem test_witness_HighestPriority :
    (({ breaking with ubc := { breaking.ubc with live := { UbcMatch.reset with pending := true } } } :
        State).ubc.live.pending
        = true ∧ breaking.mask < 15) ∧
    ({ idle with intc := { Intc.reset with nmiPending := true } } : State).intc.nmiPending = true ∧
    (∃ before r after, intSources = before ++ r :: after ∧ r.vec = 65 ∧ twoRequests.cpuRequests r = true ∧
      (∀ x ∈ before, twoRequests.cpuRequests x = true → twoRequests.levelOf x < twoRequests.levelOf r) ∧
      (∀ x ∈ after, twoRequests.cpuRequests x = true → twoRequests.levelOf x ≤ twoRequests.levelOf r)) ∧
    (∀ r ∈ intSources, idle.cpuRequests r = false) := by
  refine ⟨by decide, by decide, ⟨intSources.take 1, intSources[1]'(by decide), intSources.drop 2, ?_⟩, by decide⟩
  decide

/-- IRQ0 sensed on an edge. -/
def edgeIrq (irqcr : Byte) (flag : BitVec 4) : State :=
  { idle with intc := { Intc.reset with irqcr := irqcr, irqF := flag, irqRead := flag } }

theorem test_witness_IrqEdgeLatch :
    (∀ c ∈ [(1 : Byte), 2, 3],
      (edgeIrq c 0).intc.sense 0 ≠ 0 ∧ (edgeIrq c 0).irqFlag 0 = false ∧ (edgeIrq c 1).irqFlag 0 = true) ∧
      ((irqPin 0 false (edgeIrq 1 0)).irqFlag 0 = true ∧
        (irqPin 0 true (irqPin 0 false (edgeIrq 2 0))).irqFlag 0 = true ∧
        (irqPin 0 false (edgeIrq 3 0)).irqFlag 0 = true) := by decide

/-- The next event is a period of the peripheral clock; both CMT channels have a count and a constant. -/
def counting (cmstr cmcnt cmcor : Half) (prescaler : Nat) : State :=
  { idle with
    power := { Power.reset with stbcr4 := 0xDF }
    cmt := { Cmt.reset with
      cmstr := cmstr
      ch0 := { CmtChannel.reset with cmcnt := cmcnt, cmcor := cmcor, prescaler := prescaler }
      ch1 := { CmtChannel.reset with cmcnt := cmcnt, cmcor := cmcor, prescaler := prescaler } }
    agenda := [.ptick false] }

theorem test_witness_CompareMatch :
    (∀ (a b c : Half) (p : Nat), modeRuns (counting a b c p).mode = true ∧ (counting a b c p).proc = .run ∧
      (counting a b c p).agenda = .ptick false :: [] ∧ (counting a b c p).wdt = Wdt.reset ∧
      (counting a b c p).power.stbcr4 = 0xDF) ∧
    Wdt.reset.tme = false ∧ bitOf (0xDF : Byte) 5 = false ∧ bitOf (counting 0 3 3 0).cmt.cmstr 0 = false ∧ bitOf
        (counting 1 3 3 6).cmt.cmstr 0 = true ∧
    bitOf (counting 2 3 3 6).cmt.cmstr 1 = true ∧ (counting 1 3 3 6).cmt.ch0.prescaler + 1 < cmtPeriod (counting 1 3 3
        6).cmt.ch0 ∧
    cmtPeriod (counting 1 3 3 7).cmt.ch0 ≤ (counting 1 3 3 7).cmt.ch0.prescaler + 1 :=
  ⟨fun _ _ _ _ => ⟨rfl, rfl, rfl, rfl, rfl⟩, by decide⟩

/-- MOV.W R1,@R2 to CMCNT_0 at the moment of its compare match: the match wins (rule R609 (a)). -/
theorem test_cmt_write_lost :
    after { ((counting 1 3 3 7).setReg 1 0x55).setReg 2 0xFFFFCE04 with
        agenda := [.cpu], inner := [.ptick true], pc := 0x1100, mem := [(0x1100, 0x22), (0x1101, 0x11)] }
      (fun t => t.pc == 0x1102 && t.cmt.ch0.cmcnt == 0) = true := by decide

/-- The same for a write by the debugger. -/
theorem test_cmt_debugger_write_lost :
    after { debugging (.ptick true) with
        cmt := (counting 1 3 3 7).cmt, power := { (monitored 9 []).power with stbcr4 := 0xDF }
        agenda := [.ptick true, .audWrite 0xFFFFCE04 .word 0x55] }
      (fun t => after t (fun u => u.cmt.ch0.cmcnt == 0 && u.cmt.ch0.race.isNone)) = true := by decide

/-- The next peripheral clock overflows the WDT. -/
def overflowing (wtcsr : Byte) : State :=
  { idle with wdt := { wtcnt := 0xFF, wtcsr := wtcsr, prescaler := 0, writtenFF := false }, agenda := [.ptick false] }

theorem test_witness_WatchdogOverflow :
    (∀ c ∈ [0x80, 0xC0, 0xE0],
      modeRuns (overflowing c).mode = true ∧ (overflowing c).proc = .run ∧ (overflowing c).agenda = .ptick false :: [] ∧
        (overflowing c).pins.mres = true ∧ (overflowing c).bsc.extWrite = none ∧ (overflowing c).wdt.tme = true ∧
            (overflowing c).wdt.wtcnt = 0xFF ∧ (overflowing c).wdt.writtenFF = false ∧
        wdtPeriod (overflowing c).wdt ≤ (overflowing c).wdt.prescaler + 1) ∧
    (overflowing 0x80).wdt.watchdog = false ∧ (overflowing 0xC0).wdt.watchdog = true ∧
    bitOf (overflowing 0xC0).wdt.wtcsr 5 = false ∧ bitOf (overflowing 0xE0).wdt.wtcsr 5 = true := by decide

/-- A block of two words, stepped on both sides, with the block area on the side `mrb` says. -/
def block (mrb : Byte) : DtcInfo :=
  { mra := 0x98, mrb := mrb, sar := 0xFFFFB100, dar := 0xFFFFCE0A, cra := 0x0202, crb := 2 }

/-- The same as a repeat area, or as a block that chains or ends. -/
def activation (mrb : Byte) (zero stopping : Bool) : DtcActivity :=
  { vec := 184, base := 0xFFFFB000, info := block mrb, phase := .backCount, chained := 0, zero := zero,
    stopping := stopping, hold := .held, touched := false }

theorem test_witness_DtcNormalAndRepeat :
    (block 0x10).cral = (block 0x10).cra.extractLsb' 8 8 ∧ (block 0x18).dm = 2 ∧ (block 0x08).dts = false ∧
      (block 0x08).sm = 2 ∧ 1 < (block 0x10).length := by decide

theorem test_witness_DtcBlockAndEnd :
    ((block 0x10).dts = true ∧ (block 0x18).dts = true ∧ (block 0x18).dm = 2 ∧ (block 0x08).dts = false ∧
      (block 0x08).sm = 2) ∧
    (activation 0x10 false true).stopping = true ∧
    ((activation 0x90 false false).info.chne = true ∧ (activation 0x90 false false).info.chns = false ∧
      (activation 0x90 false false).chained < Config.dtcChainLimit) ∧
    ((activation 0x10 true false).info.chne = false ∧ (activation 0x10 true false).info.mode ≠ 1 ∧
      (activation 0x10 false false).info.disel = false ∧ (activation 0x10 false false).zero = false ∧
      (∃ r, sourceOf 184 = some r ∧ r.dtce ≠ none) ∧
      ∀ r, sourceOf 184 = some r → r.dtce ≠ (srcRow 188 .iprj 2 .cmt (some (.dtcerd, 6))).dtce) :=
  ⟨by decide, by decide, by decide, by decide, by decide, by decide, by decide,
    ⟨srcRow 184 .iprj 3 .cmt (some (.dtcerd, 7)), by decide⟩, fun r h => by
      rw [show sourceOf 184 = some (srcRow 184 .iprj 3 .cmt (some (.dtcerd, 7))) by decide] at h
      cases h
      decide⟩

theorem test_witness_ModuleStandby :
    bitOf idle.power.stbcr4 5 = true ∧ bitOf (counting 0 0 0 0).power.stbcr4 5 = false := by decide

/-- MRES falls in a standby mode. -/
def standbyMres (p : Proc) : State := { idle with proc := p, agenda := [.pin .mres false] }

/-- HSTBY rises in hardware standby, with RES low. -/
def leavingHardware : State :=
  { idle with proc := .hardware, pins := { Pins.reset with res := false, hstby := false }, agenda := [.pin .hstby true] }

theorem test_witness_ResetPins :
    modeRuns idle.mode = true ∧ idle.proc = .run ∧
      ({ idle with agenda := [.pin .res false] } : State).agenda = .pin .res false :: [] ∧
      ({ idle with agenda := [.pin .mres false] } : State).agenda = .pin .mres false :: [] ∧
      (∀ p ∈ [Proc.deep, .standby false, .standby true], (standbyMres p).proc = p ∧ (standbyMres p).pins.res = true ∧
        modeRuns (standbyMres p).mode = true ∧ (standbyMres p).agenda = .pin .mres false :: []) ∧
      ({ idle with inner := [.pin .res false] } : State).inner = .pin .res false :: [] ∧
      ({ idle with inner := [.pin .mres false] } : State).inner = .pin .mres false :: [] ∧
      ({ idle with bsc := { Bsc.reset with extWrite := some { cell := 0x2000000, size := .long, old := 0 } } } :
          State).bsc.extWrite
        = some { cell := 0x2000000, size := .long, old := 0 } ∧
      idle.bsc.extWrite = none ∧ idle.pins.res = true ∧ idle.pins.hstby = true ∧
      ({ idle with agenda := [.pin .hstby false] } : State).agenda = .pin .hstby false :: [] ∧
      idle.proc ≠ .hardware ∧ leavingHardware.agenda = .pin .hstby true :: [] ∧ leavingHardware.proc = .hardware ∧
      leavingHardware.pins.res = false ∧ modeRuns leavingHardware.mode = true := by decide

theorem test_witness_StandbyWake :
    (({ idle with proc := .standby false, agenda := [.pin .nmi false] } : State).proc = .standby false ∧
      nmiEdge idle.intc.nmie idle.pins.nmi false = true) ∧
    (({ overflowing 0 with proc := .standby true } : State).proc = .standby true ∧
      ({ overflowing 0 with proc := .standby true } : State).agenda = .ptick false :: [] ∧
      (overflowing 0).pins.mres = true ∧ (overflowing 0).wdt.wtcnt = 0xFF ∧ wdtPeriod (overflowing 0).wdt ≤
          (overflowing 0).wdt.prescaler + 1) := by decide

/-- The UBC and the debugger with their clocks, and a setting that may not have taken effect. -/
def lagging : State :=
  { monitored 9 [] with
    power := { Power.reset with stbcr5 := 0x00, stbcr6 := 0x80 }
    ubc := { Ubc.reset with lag := [{ regs := .reset, betr := none, cleared := false }] } }

/-- A read-back by the CPU ends it, a read by the debugger does not (rule R686). -/
theorem test_ubc_read_back :
    passes (cpuRead lagging .long 0xFFFFF304) (fun _ t => t.ubc.lag.isEmpty) = true ∧
      (match audRead .long 0xFFFFF304 lagging with
        | .ok t => t.ubc.lag.isEmpty
        | .error _ => true) = false := by decide

/-- An entry not read yet. -/
def branched (src dst : BitVec 28) : TraceEntry := { src := src, dst := dst, svf := true, dvf := true }

/-- Two branches in the trace queue. -/
def traced : State :=
  idle.setTrace [branched 0x100 0x200, branched 0x300 0x400]

/-- BRSR, then BRDR, of the first entry; the second is left (rule R508). -/
theorem test_trace_reads :
    (ubcRead .brsr traced).1 = 0x80000100 ∧
      ((ubcRead .brsr traced).2.ubc.trace.map (fun e => (e.svf, e.dvf))) = [(false, true), (true, true)] ∧
      (ubcRead .brdr (ubcRead .brsr traced).2).1 = 0x80000200 ∧
      ((ubcRead .brdr (ubcRead .brsr traced).2).2.ubc.trace.map (fun e => e.src)) = [0x300] := by decide

/-- A misaligned store over BRSR leaves BRDR and the second entry (rule R106). -/
theorem test_trace_forced :
    (regForce .brsr 0x00000004 traced).ubc.trace =
      [{ branched 4 0x200 with svf := false }, branched 0x300 0x400] ∧
    (regForce .brdr 0x80000008 traced).ubc.trace = [branched 0x100 8, branched 0x300 0x400] := by decide

/-- A byte condition whose two data bytes differ is open, also where the mask hides the difference (rule R511). -/
theorem test_split_data_open :
    ∀ b, channelMatches { UbcChannel.reset with bbr := 0x0065, bdr := 0x1200, bdmr := 0xFFFFFFFF } true
      { ibus := false, dtc := false, fetch := false, write := false, size := .byte, addr := 0, data := 0 } b = b := by
  decide

/-- A reserved wait code stops a read, and a write that uses it because WW is 000 (rule R548). -/
theorem test_reserved_wait :
    let waits (w : Word) : State := { idle with bsc := { Bsc.reset with cs1wcr := w } }
    csWaitProhibited false true (waits 0x10680) = true ∧ csWaitProhibited true true (waits 0x10680) = false ∧
      csWaitProhibited true true (waits 0x680) = true ∧ csWaitProhibited false true (waits 0x600) = false := by decide

theorem test_withFetchWord :
    after (State.reset.withFetchWord 16 0x7105) (fun t => t.reg 1 == 5) = true ∧
      decodeTableWord 16 0x7105 = some (.addImm 5 1) := by decide
end

section
/-! PROOF. The part and the operating mode along a step (statement O48): the agents beside the CPU, the points between the
accesses of the CPU, the shared operations of the meanings, the instructions, the step of the CPU, and the scheduler, in this
order. -/

namespace Sys2Proof.Machine

/-- The part and the operating mode are equal. -/
structure SameChip (s t : State) : Prop where
  part : t.part = s.part
  mode : t.mode = s.mode

theorem SameChip.refl (s : State) : SameChip s s := ⟨rfl, rfl⟩

theorem SameChip.trans {s t u : State} (a : SameChip s t) (b : SameChip t u) : SameChip s u :=
  ⟨b.part.trans a.part, b.mode.trans a.mode⟩

theorem Core.chip {s t : State} (h : Core s t) : SameChip s t := ⟨h.part, h.mode⟩

theorem Same.chip {s t : State} (h : Same s t) : SameChip s t := ⟨h.part, h.mode⟩

/-- As `SameChip`, and the state reached is not held in a power-on reset, the one state in which a pin latches the mode. -/
structure Proceeds (s t : State) : Prop extends SameChip s t where
  unheld : t.proc ≠ .resetHeld .powerOn

/-- An update of other fields does no harm. -/
theorem Proceeds.update {s t u : State} (h : Proceeds s t) (part : u.part = t.part := by rfl)
    (mode : u.mode = t.mode := by rfl) (proc : u.proc = t.proc := by rfl) : Proceeds s u :=
  ⟨h.toSameChip.trans ⟨part, mode⟩, proc ▸ h.unheld⟩

theorem Proceeds.core {s t u : State} (h : Proceeds s t) (k : Core t u) : Proceeds s u :=
  h.update k.part k.mode k.proc

theorem Proceeds.same {s t u : State} (h : Proceeds s t) (k : Same t u) : Proceeds s u := h.core k.core

theorem Proceeds.only {s t u : State} (h : Proceeds s t) (k : OnlyUbc t u) : Proceeds s u := h.same k.same

theorem Proceeds.pcTrace {s t : State} (h : Proceeds s t) (src dst : Word) : Proceeds s (pcTrace src dst t) :=
  h.update (by simp) (by simp) (by simp)

/-! ## Resets and power cuts -/

theorem drawRegs_chip (n k : Nat) (s : State) : SameChip s (drawRegs n k s) := by
  induction n generalizing k s with
  | zero => exact SameChip.refl s
  | succ n ih => exact ⟨(ih _ _).part, (ih _ _).mode⟩

theorem forgetCpu_chip (s : State) : SameChip s (forgetCpu s) := by
  have h := drawRegs_chip 16 0 s
  exact ⟨by simpa [forgetCpu] using h.part, by simpa [forgetCpu] using h.mode⟩

theorem resetCpu_chip (s : State) : SameChip s (resetCpu s) := (forgetCpu_chip s).trans ⟨rfl, rfl⟩

theorem cutExternalWrite_chip (s : State) : SameChip s (cutExternalWrite s) := by
  unfold cutExternalWrite
  split <;> exact ⟨rfl, rfl⟩

theorem initialiseAll_chip (s : State) : SameChip s (initialiseAll s) := ⟨rfl, rfl⟩

theorem forgetRam_chip (s : State) : SameChip s (forgetRam s) := ⟨rfl, rfl⟩

theorem powerOnInit_chip (s : State) : SameChip s (powerOnInit s) :=
  (((cutExternalWrite_chip s).trans (resetCpu_chip _)).trans (initialiseAll_chip _)).trans (forgetAud_same _).chip

theorem powerCut_chip (s : State) : SameChip s (powerCut s) :=
  (((forgetRam_chip s).trans (forgetCpu_chip _)).trans (initialiseAll_chip _)).trans (forgetAud_same _).chip

theorem manualInit_chip (s : State) : SameChip s (manualInit s) :=
  ((resetCpu_chip s).trans (forgetAud_same _).chip).trans ⟨rfl, rfl⟩

theorem powerOnReset_chip (s : State) : SameChip s (powerOnReset s) := (powerOnInit_chip s).trans ⟨rfl, rfl⟩

theorem clocksBack_chip (s : State) : SameChip s (clocksBack s) := ⟨rfl, rfl⟩

theorem manualReset_chip (s : State) : SameChip s (manualReset s) := (manualInit_chip s).trans ⟨rfl, rfl⟩

/-- The release of a power-on reset latches a new mode; the part stays (rules R118, R666). -/
theorem releaseReset_part (s : State) : (releaseReset s).part = s.part := by
  unfold releaseReset
  dsimp only
  split
  · rfl
  · dsimp only
    exact (manualInit_chip _).part

/-! ## The pins -/

/-- What an event can do: the part stays, and the mode changes only when RES rises in the power-on reset state. -/
structure KeepsLatch (e : Event) (s t : State) : Prop where
  part : t.part = s.part
  latch : t.mode ≠ s.mode → s.proc = .resetHeld .powerOn ∧ e = .pin .res true

theorem SameChip.keepsLatch {s t : State} (h : SameChip s t) (e : Event) : KeepsLatch e s t :=
  ⟨h.part, fun hm => absurd h.mode hm⟩

theorem KeepsLatch.after {e : Event} {s t u : State} (h : KeepsLatch e s t) (k : SameChip t u) : KeepsLatch e s u :=
  ⟨k.part.trans h.part, fun hm => h.latch (k.mode ▸ hm)⟩

theorem KeepsLatch.before {e : Event} {s t u : State} (h : Core s t) (k : KeepsLatch e t u) : KeepsLatch e s u :=
  ⟨k.part.trans h.part, fun hm => by simpa only [h.proc] using k.latch (h.mode ▸ hm)⟩

/-- Where no power-on reset is held the mode stays too. -/
theorem KeepsLatch.chip {e : Event} {s t : State} (h : KeepsLatch e s t) (hp : s.proc ≠ .resetHeld .powerOn) :
    SameChip s t :=
  ⟨h.part, by_contra fun hm => hp (h.latch hm).1⟩

theorem resPin_latch (high : Bool) (s : State) : KeepsLatch (.pin .res high) s (resPin high s) := by
  have level := (pins_core s { s.pins with res := high }).chip
  unfold resPin
  dsimp only
  split
  · next hp =>
    cases high
    · exact level.keepsLatch _
    · exact ⟨releaseReset_part _, fun _ => ⟨hp, rfl⟩⟩
  all_goals
    split
    · exact level.keepsLatch _
    · exact (level.trans (powerOnReset_chip _)).keepsLatch _

theorem mresInStandby_chip (s : State) : SameChip s (mresInStandby s) := by
  rcases mresInStandby_cases s with h | h <;> rw [h]
  · exact (drawBit_same s).chip
  · exact ((drawBit_same s).chip.trans (clocksBack_chip _)).trans (manualReset_chip _)

theorem mresPin_chip (high : Bool) (s : State) : SameChip s (mresPin high s) := by
  have level := (pins_core s { s.pins with mres := high }).chip
  unfold mresPin
  dsimp only
  split
  case h_1 | h_2 | h_3 =>
    split
    · exact level
    · exact level.trans (manualReset_chip _)
  case h_4 | h_5 =>
    split
    · exact level
    · exact level.trans (mresInStandby_chip _)
  case h_6 => split <;> exact ⟨rfl, rfl⟩
  all_goals exact level

theorem hstbyPin_chip (high : Bool) (s : State) : SameChip s (hstbyPin high s) := by
  have level := (pins_core s { s.pins with hstby := high }).chip
  unfold hstbyPin
  dsimp only
  split
  · split
    · exact level.trans (powerOnReset_chip _)
    · exact level
  all_goals
    split
    · exact level
    · exact (level.trans ((cutExternalWrite_chip _).trans (powerCut_chip _))).trans ⟨rfl, rfl⟩

theorem wakeUp_chip (s : State) : SameChip s (wakeUp s) := by
  unfold wakeUp
  split <;> exact ⟨rfl, rfl⟩

theorem nmiPin_chip (high : Bool) (s : State) : SameChip s (nmiPin high s) := by
  have level := (pins_core s { s.pins with nmi := high }).chip
  unfold nmiPin
  dsimp only
  split
  · exact ((level.trans (same_intc _ _).chip).trans (dtcNmi_same _).chip).trans (wakeUp_chip _)
  · exact level

theorem irqEvent_chip (n : Nat) (high : Bool) (s : State) : SameChip s (irqEvent n high s) := by
  unfold irqEvent
  dsimp only
  split
  · split
    · exact (irqPin_core n high s).chip.trans (wakeUp_chip _)
    · exact (irqPin_core n high s).chip
  · exact ⟨rfl, rfl⟩

/-- Of the pins RES alone can change the mode: the mode pins act when it rises (rule R118). -/
theorem pinEvent_latch (p : Pin) (high : Bool) (s : State) : KeepsLatch (.pin p high) s (pinEvent p high s) := by
  cases p with
  | res => exact resPin_latch high s
  | mres => exact (mresPin_chip high s).keepsLatch _
  | hstby => exact (hstbyPin_chip high s).keepsLatch _
  | nmi => exact (nmiPin_chip high s).keepsLatch _
  | irq n => exact (irqEvent_chip n.val high s).keepsLatch _
  | audrst =>
    refine SameChip.keepsLatch ?_ _
    simp only [pinEvent]
    split
    · exact ⟨rfl, rfl⟩
    · exact (pins_core s _).chip.trans (audInit_same _).chip
  | breq | fwe | md1 | md0 | audmd => exact (pins_core s _).chip.keepsLatch _

/-! ## The peripheral clock -/

theorem watchdogReset_chip (s : State) : SameChip s (watchdogReset s) := by
  unfold watchdogReset
  split
  · exact SameChip.refl s
  · split
    · exact (manualInit_chip s).trans ⟨rfl, rfl⟩
    · exact (powerOnInit_chip s).trans ⟨rfl, rfl⟩

theorem runPtick_chip (meets : Bool) (s : State) : SameChip s (runPtick meets s) := by
  have hc := cmtPtick_same meets s
  unfold runPtick
  dsimp only
  split
  · split
    · have ho := (hc.trans (same_wdt _ (wdtOverflow (wdtTick (cmtPtick meets s).wdt).1))).chip
      split
      · exact ho.trans (watchdogReset_chip _)
      · exact ho
    · exact (hc.trans (same_wdt _ _)).chip
  · exact hc.chip

theorem resume_chip (s : State) : SameChip s (resume s) := by
  unfold resume
  dsimp only
  split
  · exact ⟨rfl, rfl⟩
  · exact (clocksBack_chip s).trans (manualReset_chip _)

theorem settlingPtick_chip (s : State) : SameChip s (settlingPtick s) := by
  unfold settlingPtick
  dsimp only
  split
  · exact (same_wdt s _).chip.trans (resume_chip _)
  · exact (same_wdt s _).chip

theorem ptickEvent_chip (meets : Bool) (s : State) : SameChip s (ptickEvent meets s) := by
  unfold ptickEvent
  split
  case h_6 => exact settlingPtick_chip s
  case h_1 | h_2 | h_3 | h_4 | h_5 => exact runPtick_chip meets s
  all_goals exact SameChip.refl s

/-! ## An event -/

theorem Answers.map {x : Except Fault State} {f : State → State} {P Q : State → Prop} (h : Answers x P)
    (k : ∀ t, P t → Q (f t)) : Answers (x.map f) Q := by
  cases x with
  | error e => exact Answers.error
  | ok t => exact Answers.ok (k t (h t rfl))

/-- An access of the DTC or of the debugger, with the end of a coincidence after it. -/
theorem agentAccess_latch (e : Event) {s : State} {x : Except Fault State} (h : Answers x (Core s)) :
    Answers (x.map clearRaces) (KeepsLatch e s) :=
  h.map fun t k => (k.trans (clearRaces_same t).core).chip.keepsLatch e

/-- What an event can do to the part and the mode. -/
theorem agentEvent_latch (e : Event) (s : State) : Answers (agentEvent e s) (KeepsLatch e s) := by
  have hc := (clearRaces_same s).core
  refine Answers.map (P := KeepsLatch e s) ?_ (fun t h => h.after (refreshQueue_same t).chip)
  cases e with
  | cpu => exact Answers.ok ((SameChip.refl s).keepsLatch _)
  | dtc yield => exact agentAccess_latch _ (dtcEvent_core yield s)
  | ptick meets => exact Answers.ok ((hc.chip.trans (ptickEvent_chip meets _)).keepsLatch _)
  | pin p high => exact Answers.ok (.before hc (pinEvent_latch p high _))
  | line l on => exact Answers.ok ((hc.trans (lineEvent_core l on _)).chip.keepsLatch _)
  | clockStop => exact Answers.ok ((hc.trans (clockStopEvent_core _)).chip.keepsLatch _)
  | audRead a z => exact agentAccess_latch _ (audRead_core z a s)
  | audWrite a z v => exact agentAccess_latch _ (audWrite_core z a v s)
  | external cs1 a v => exact Answers.ok ((hc.trans (masterAccess_core cs1 a v _)).chip.keepsLatch _)

/-! ## Between two accesses of the CPU -/

/-- The CPU's step goes on with the chip it began with, or was abandoned with it. -/
def Flow.KeepsChip (s : State) : Flow → Prop
  | .go t => Proceeds s t
  | .abandoned t => SameChip s t
  | .stop _ => True

theorem takeInner_chip (l : List Event) {s t : State} (h : Proceeds s t) : (takeInner l t).KeepsChip s := by
  induction l generalizing t with
  | nil => exact h.core (inner_core t _)
  | cons e rest ih =>
    have hb := h.core (settleBus_core t)
    unfold takeInner
    dsimp only
    split
    · split
      · exact ih hb
      · exact hb.core (inner_core _ rest)
    · cases ha : agentEvent e (settleBus t) with
      | error f => trivial
      | ok u =>
        have hu : SameChip s u := hb.toSameChip.trans ((agentEvent_latch e _ u ha).chip hb.unheld)
        dsimp only
        split
        · next hp => exact ih ⟨hu, hp ▸ hb.unheld⟩
        · exact hu.trans ⟨rfl, rfl⟩

theorem between_chip (a : Word) {s t : State} (h : Proceeds s t) : (between a t).KeepsChip s := by
  have hi := takeInner_chip t.inner (h.same (clearRaces_same t))
  unfold between
  split
  · next u e =>
    rw [e] at hi
    have hg : Proceeds s (if t.inner.isEmpty then u else regainBus u) := by
      split
      · exact hi
      · exact Proceeds.core hi (regainBus_core u)
    cases hw : awaitBus 1024 a (if t.inner.isEmpty then u else regainBus u) with
    | error f => trivial
    | ok w => exact hg.core (awaitBus_core _ _ _ w hw)
  · next u e =>
    rw [e] at hi
    exact hi
  · trivial

/-! ## The shared operations of the meanings -/

/-- The next state, if the outcome is one, has the property. -/
def Ends (P : State → Prop) : Result → Prop
  | .next t => P t
  | .fault _ => True
  | .refused _ => True

theorem Ends.next {P : State → Prop} {r : Result} {t : State} (h : Ends P r) (e : r = .next t) : P t := by
  subst e
  exact h

theorem Ends.mono {P Q : State → Prop} {r : Result} (h : Ends P r) (k : ∀ t, P t → Q t) : Ends Q r := by
  cases r with
  | next t => exact k t h
  | fault e => trivial
  | refused e => trivial

theorem Ends.mapNext {P Q : State → Prop} {f : State → State} {r : Result} (h : Ends P r) (k : ∀ t, P t → Q (f t)) :
    Ends Q (mapNext f r) := by
  cases r with
  | next t => exact k t h
  | fault e => trivial
  | refused e => trivial

section
variable {s t : State}

theorem finish_chip (h : Proceeds s t) : Ends (SameChip s) (finish t) := by
  obtain ⟨u, e, hu⟩ := finish_ended t
  rw [e]
  exact h.toSameChip.trans ⟨hu.modules.part, hu.modules.mode⟩

theorem finishBlocking_chip (h : Proceeds s t) : Ends (SameChip s) (finishBlocking t) := by
  obtain ⟨u, e, hu⟩ := finishBlocking_ended t
  rw [e]
  exact h.toSameChip.trans ⟨hu.modules.part, hu.modules.mode⟩

theorem branchTo_chip (target : Word) (h : Proceeds s t) : Ends (SameChip s) (branchTo target t) :=
  have hj : Proceeds s { t with pc := target, irqBlock := false } := h.update
  (hj.pcTrace t.pc target).toSameChip.trans ⟨rfl, rfl⟩

theorem delayedBranch_chip (target pr : Word) (rte : Bool) (h : Proceeds s t) :
    Ends (SameChip s) (delayedBranch target pr rte t) := ⟨h.part, h.mode⟩

theorem beforeAccess_chip (a : Word) {k : State → Result} (h : Proceeds s t)
    (hk : ∀ u, Proceeds s u → Ends (SameChip s) (k u)) : Ends (SameChip s) (beforeAccess a t k) := by
  have hb := between_chip a h
  unfold beforeAccess
  cases e : between a t with
  | go u => rw [e] at hb; exact hk u hb
  | abandoned u => rw [e] at hb; exact hb
  | stop f => trivial

theorem cpuRead_proceeds (z : Size) (a : Word) (h : Proceeds s t) : (cpuRead t z a).Lands (Proceeds s) :=
  (cpuRead_same t z a).mono fun _ k => h.same k

theorem cpuWrite_proceeds (z : Size) (a v : Word) (h : Proceeds s t) : (cpuWrite t z a v).Lands (Proceeds s) :=
  (cpuWrite_lands t z a v).mono fun _ k => h.core k.core

/-! ## Exceptions -/

theorem pushWrite_chip (a v : Word) (open_ : Bool) {k : Bool → State → Result} (h : Proceeds s t)
    (hk : ∀ b u, Proceeds s u → Ends (SameChip s) (k b u)) : Ends (SameChip s) (pushWrite a v open_ t k) := by
  refine beforeAccess_chip a h fun u hu => ?_
  have hw := cpuWrite_proceeds .long a v hu
  cases e : cpuWrite u .long a v with
  | ok x w => rw [e] at hw; exact hk _ w hw
  | addressError w => rw [e] at hw; exact hk _ w hw
  | stop f => trivial

theorem pushEntry_chip (v : Word) {k : Bool → State → Result} (h : Proceeds s t)
    (hk : ∀ b u, Proceeds s u → Ends (SameChip s) (k b u)) : Ends (SameChip s) (pushEntry v t k) := by
  unfold pushEntry
  dsimp only
  split <;> exact pushWrite_chip _ _ _ h.update hk

theorem raiseMask_proceeds (l : Option Nat) (h : Proceeds s t) : Proceeds s (raiseMask l t) := by
  cases l <;> exact h.update

theorem jumpVector_chip (vec : Nat) (saved : Word) {k : State → Result} (h : Proceeds s t)
    (hk : ∀ u, Proceeds s u → Ends (SameChip s) (k u)) : Ends (SameChip s) (jumpVector vec saved t k) := by
  unfold jumpVector
  dsimp only
  split
  · trivial
  · refine beforeAccess_chip _ h fun u hu => ?_
    have hr := cpuRead_proceeds .long (t.vbr + BitVec.ofNat 32 (4 * vec)) hu
    split
    · next v w e =>
      rw [e] at hr
      have hj : Proceeds s { w with pc := v, slot := none, irqBlock := false } := hr.update
      have ht := hj.pcTrace saved v
      exact hk _ ht.update
    · trivial
    · trivial

theorem enterOnce_chip (vec : Nat) (saved : Word) (l : Option Nat) {k : Bool → State → Result} (h : Proceeds s t)
    (hk : ∀ b u, Proceeds s u → Ends (SameChip s) (k b u)) : Ends (SameChip s) (enterOnce vec saved l t k) :=
  pushEntry_chip _ h fun _ _ h1 =>
    pushEntry_chip _ h1 fun _ _ h2 => jumpVector_chip vec saved (raiseMask_proceeds l h2) (hk _)

theorem enterAddressError_chip (saved : Word) (h : Proceeds s t) : Ends (SameChip s) (enterAddressError saved t) :=
  enterOnce_chip 9 saved none h fun _ _ hu => hu.toSameChip

theorem enter_chip (vec : Nat) (saved : Word) (l : Option Nat) (h : Proceeds s t) :
    Ends (SameChip s) (enter vec saved l t) := by
  refine enterOnce_chip vec saved l h fun bad u hu => ?_
  cases bad
  · exact hu.toSameChip
  · exact enterAddressError_chip u.pc hu

theorem raiseWith_chip (keep : Bool) {entry : Word → State → Result} (h : Proceeds s t)
    (he : ∀ pc u, Proceeds s u → Ends (SameChip s) (entry pc u)) : Ends (SameChip s) (raiseWith keep t entry) := by
  have hc := h.same (ubcCancel_same keep t)
  rcases raiseWith_cases keep t entry with ⟨-, e⟩ | ⟨d, -, -, e⟩ | ⟨d, -, -, e⟩ <;> rw [e]
  · exact he _ _ hc
  · trivial
  · exact he _ _ hc.update

theorem raiseException_chip (vec : Nat) (h : Proceeds s t) : Ends (SameChip s) (raiseException vec t) :=
  raiseWith_chip false h fun pc _ hu => enter_chip vec pc none hu

theorem addressErrorException_chip (h : Proceeds s t) : Ends (SameChip s) (addressErrorException t) :=
  raiseWith_chip true h fun pc _ hu => enterAddressError_chip pc hu

theorem fetchAddressError_chip (h : Proceeds s t) : Ends (SameChip s) (fetchAddressError t) :=
  raiseWith_chip false h fun pc _ hu => enterAddressError_chip pc hu

theorem notInSlot_chip {k : State → Result} (h : Proceeds s t) (hk : Ends (SameChip s) (k t)) :
    Ends (SameChip s) (notInSlot t k) := by
  unfold notInSlot
  split
  · exact hk
  · exact raiseException_chip 6 h

theorem pcRelative_chip {k : State → Result} (hk : Ends (SameChip s) (k t)) : Ends (SameChip s) (pcRelative t k) := by
  unfold pcRelative
  split
  · exact hk
  · trivial

theorem trap_chip (vec : Nat) (h : Proceeds s t) : Ends (SameChip s) (trap vec t) :=
  Ends.mapNext (enter_chip vec (t.pc + 2) none (h.same (ubcCancel_same true t)))
    fun u hu => hu.trans (ubcCancel_same true u).chip

/-! ## Loads and stores -/

/-- An update with a value read from memory that lets the CPU's step proceed. -/
def Harmless (f : Word → State → State) : Prop := ∀ v s t, Proceeds s t → Proceeds s (f v t)

theorem spoilDestination_proceeds (z : Size) (a : Word) {f : Word → State → State} (hf : Harmless f)
    (h : Proceeds s t) : Proceeds s (spoilDestination z a f t) := by
  unfold spoilDestination
  split
  · exact hf _ _ _ (h.same (drawWord_same t))
  · exact h

theorem loadOr_chip (z : Size) (a : Word) {f : Word → State → State} {k : Word → State → Result} (hf : Harmless f)
    (h : Proceeds s t) (hk : ∀ v u, Proceeds s u → Ends (SameChip s) (k v u)) :
    Ends (SameChip s) (loadOr z a f t k) := by
  refine beforeAccess_chip a h fun u hu => ?_
  have hr := cpuRead_proceeds z a hu
  cases e : cpuRead u z a with
  | ok v w => rw [e] at hr; exact hk v w hr
  | addressError w => rw [e] at hr; exact addressErrorException_chip (spoilDestination_proceeds z a hf hr)
  | stop g => trivial

theorem load_chip (z : Size) (a : Word) {k : Word → State → Result} (h : Proceeds s t)
    (hk : ∀ v u, Proceeds s u → Ends (SameChip s) (k v u)) : Ends (SameChip s) (load z a t k) :=
  loadOr_chip z a (fun _ _ _ hu => hu) h hk

theorem Proceeds.setReg (h : Proceeds s t) (n : Reg) (v : Word) : Proceeds s (t.setReg n v) :=
  h.update

theorem loadTo_chip (z : Size) (a : Word) (n : Reg) {update : State → State}
    (hu : ∀ u, Proceeds s u → Proceeds s (update u)) (h : Proceeds s t) : Ends (SameChip s) (loadTo z a n update t) :=
  loadOr_chip z a (fun v _ _ k => k.setReg n v) h fun _ _ k => finish_chip ((hu _ k).setReg n _)

theorem storeNow_chip (z : Size) (a v : Word) {k : State → Result} (h : Proceeds s t)
    (hk : ∀ u, Proceeds s u → Ends (SameChip s) (k u)) : Ends (SameChip s) (storeNow z a v t k) := by
  have hw := cpuWrite_proceeds z a v h
  unfold storeNow
  split
  · next u e => rw [e] at hw; exact hk u hw
  · next u e => rw [e] at hw; exact addressErrorException_chip (Proceeds.core hw (spoilContainer_core z a u))
  · trivial

theorem store_chip (z : Size) (a v : Word) {k : State → Result} (h : Proceeds s t)
    (hk : ∀ u, Proceeds s u → Ends (SameChip s) (k u)) : Ends (SameChip s) (store z a v t k) :=
  beforeAccess_chip a h fun _ hu => storeNow_chip z a v hu hk

theorem modifyByte_chip (a : Word) (f : Word → Word) (h : Proceeds s t) : Ends (SameChip s) (modifyByte a t f) :=
  load_chip .byte a h fun _ _ hu => store_chip .byte a _ hu fun _ hw => finish_chip hw

theorem multiplyAccumulate_chip (z : Size) (step : Word) (m n : Reg) {k : Word → Word → State → State}
    (hk : ∀ a, Harmless (k a)) (h : Proceeds s t) : Ends (SameChip s) (multiplyAccumulate z step m n t k) :=
  load_chip z _ h fun a _ h1 =>
    load_chip z _ h1 fun b _ h2 => finish_chip (hk a b _ _ ((h2.setReg n _).setReg m _))

theorem loadSystem_chip (m : Reg) {spoil k : Word → State → State} (hs : Harmless spoil) (hk : Harmless k)
    (h : Proceeds s t) : Ends (SameChip s) (loadSystem m spoil t k) :=
  loadOr_chip .long _ hs h fun v _ hu => finishBlocking_chip (hk v _ _ (hu.setReg m _))

theorem storeSystem_chip (n : Reg) (v : Word) (h : Proceeds s t) : Ends (SameChip s) (storeSystem n t v) :=
  store_chip .long _ v h fun _ hu => finishBlocking_chip (hu.setReg n _)

theorem returnFromException_chip (h : Proceeds s t) : Ends (SameChip s) (returnFromException t) :=
  load_chip .long _ h fun _ _ h1 => load_chip .long _ h1 fun _ _ h2 =>
    delayedBranch_chip _ _ true h2.update

theorem lowPower_chip (h : Proceeds s t) : Ends (SameChip s) (lowPower t) := by
  have ha : SameChip s (advance t) := h.toSameChip.trans ⟨advance_part t, advance_mode t⟩
  unfold lowPower
  split
  · trivial
  · split
    · split
      · exact ha.trans ⟨rfl, rfl⟩
      · trivial
    · split
      · split
        · exact ha.trans ⟨rfl, rfl⟩
        · trivial
      · split
        · exact (h.toSameChip.trans ((cutExternalWrite_chip t).trans (powerCut_chip _))).trans ⟨rfl, rfl⟩
        · trivial

/-! ## The instructions -/

theorem Ends.ite {P : State → Prop} {c : Prop} [Decidable c] {a b : Result} (ha : Ends P a) (hb : Ends P b) :
    Ends P (if c then a else b) := by
  split
  · exact ha
  · exact hb

theorem accumulateLong_proceeds (p : Int) (h : Proceeds s t) : Proceeds s (accumulateLong t p) :=
  h.update

theorem accumulateWord_proceeds (p : Int) (h : Proceeds s t) : Proceeds s (accumulateWord t p) := by
  unfold accumulateWord
  dsimp only
  split
  · split
    · exact h.update
    · split <;> exact h.update
  · exact h.update

/-- No instruction changes the part or the mode, whatever the agents do between its accesses. -/
theorem exec_chip (i : Instr) (h : Proceeds s t) : Ends (SameChip s) (exec i t) := by
  unfold exec
  cases i with
  | movImm | mov | movt | swapB | swapW | xtrct | add | addImm | addc | addv | cmpEqImm | cmpEq | cmpHs | cmpGe | cmpHi
  | cmpGt | cmpPl | cmpPz | cmpStr | div1 | div0s | div0u | dmulsL | dmuluL | dt | extsB | extsW | extuB | extuW | mulL
  | mulsW | muluW | neg | negc | sub | subc | subv | andReg | andImm | notReg | orReg | orImm | tst | tstImm | xorReg
  | xorImm | rotl | rotr | rotcl | rotcr | shal | shar | shll | shlr | shll2 | shlr2 | shll8 | shlr8 | shll16 | shlr16
  | clrt | sett | clrmac | nop =>
    exact finish_chip h.update
  | ldcGbr | ldcVbr | ldsMach | ldsMacl | ldsPr | stcSr | stcGbr | stcVbr | stsMach | stsMacl | stsPr =>
    exact finishBlocking_chip h.update
  | movBLoad | movWLoad | movLLoad | movBLoadDisp | movWLoadDisp | movLLoadDisp | movBLoadIdx | movWLoadIdx | movLLoadIdx
  | movBLoadGbr | movWLoadGbr | movLLoadGbr =>
    exact loadTo_chip _ _ _ (fun _ k => k) h
  | movBLoadInc m | movWLoadInc m | movLLoadInc m => exact loadTo_chip _ _ _ (fun _ k => k.setReg m _) h
  | movWPc | movLPc => exact pcRelative_chip (loadTo_chip _ _ _ (fun _ k => k) h)
  | mova => exact pcRelative_chip (finish_chip (h.setReg 0 _))
  | movBStore | movWStore | movLStore | movBStoreDisp | movWStoreDisp | movLStoreDisp | movBStoreIdx | movWStoreIdx
  | movLStoreIdx | movBStoreGbr | movWStoreGbr | movLStoreGbr =>
    exact store_chip _ _ _ h fun _ k => finish_chip k
  | movBStoreDec _ n | movWStoreDec _ n | movLStoreDec _ n =>
    exact store_chip _ _ _ h fun _ k => finish_chip (k.setReg n _)
  | macL m n => exact multiplyAccumulate_chip _ _ m n (fun _ _ _ _ k => accumulateLong_proceeds _ k) h
  | macW m n => exact multiplyAccumulate_chip _ _ m n (fun _ _ _ _ k => accumulateWord_proceeds _ k) h
  | andB | orB | xorB => exact modifyByte_chip _ _ h
  | tasB =>
    exact load_chip _ _ h fun _ _ k => storeNow_chip _ _ _ k fun _ l => finish_chip l.update
  | tstB => exact load_chip _ _ h fun _ _ k => finish_chip k.update
  | bf => exact notInSlot_chip h (.ite (finish_chip h) (branchTo_chip _ h))
  | bt => exact notInSlot_chip h (.ite (branchTo_chip _ h) (finish_chip h))
  | bfS => exact notInSlot_chip h (.ite (finish_chip h) (delayedBranch_chip _ _ _ h))
  | btS => exact notInSlot_chip h (.ite (delayedBranch_chip _ _ _ h) (finish_chip h))
  | bra | braf | bsr | bsrf | jmp | jsr | rts =>
    exact notInSlot_chip h (delayedBranch_chip _ _ _ h.update)
  | ldcSr => exact notInSlot_chip h (finishBlocking_chip h.update)
  | ldcLSr m =>
    exact notInSlot_chip h (loadSystem_chip m (fun _ _ _ k => k.update) (fun _ _ _ k => k.update) h)
  | ldcLGbr m | ldcLVbr m | ldsLMach m | ldsLMacl m | ldsLPr m =>
    exact loadSystem_chip m (fun _ _ _ k => k.update) (fun _ _ _ k => k.update) h
  | stcLSr n | stcLGbr n | stcLVbr n | stsLMach n | stsLMacl n | stsLPr n => exact storeSystem_chip n _ h
  | rte => exact notInSlot_chip h (returnFromException_chip h)
  | sleep => exact lowPower_chip h
  | trapa => exact notInSlot_chip h (trap_chip _ h)

/-! ## The step of the CPU -/

theorem ubcBoundary_only (s : State) : OnlyUbc s (ubcBoundary s) := by
  unfold ubcBoundary
  dsimp only
  split
  · exact OnlyUbc.refl s
  · split <;> exact only_ubc s _

theorem ubcMark_only (s : State) : OnlyUbc s (ubcMark s) := only_ubc s _

theorem ubcFetchHits_only (a : Word) (s : State) : OnlyUbc s (ubcFetchHits a s).2 := by
  unfold ubcFetchHits
  split
  · exact OnlyUbc.refl s
  · exact ubcEffective_only s

theorem ubcFetchMet_only (h : FetchHits) (a b : Bool) (s : State) : OnlyUbc s (ubcFetchMet h a b s).2 := by
  unfold ubcFetchMet
  split
  · exact ubcMet_only _ _ _ _ _ _ s
  · exact OnlyUbc.refl s

theorem ubcPre_only (h : FetchHits) (s : State) : OnlyUbc s (ubcPre h s).2 := ubcFetchMet_only h _ _ s

theorem latchPre_only (h : FetchHits) (s : State) : OnlyUbc s (latchPre h s) := by
  unfold latchPre
  dsimp only
  split
  · exact (ubcPre_only h s).trans (requestBreak_only _)
  · exact ubcPre_only h s

theorem ubcPost_only (h : FetchHits) (s : State) : OnlyUbc s (ubcPost h s) := by
  unfold ubcPost
  dsimp only
  split
  · exact (ubcFetchMet_only h _ _ s).trans (requestBreak_only _)
  · exact ubcFetchMet_only h _ _ s

theorem acknowledge_same (vec : Nat) (s : State) : Same s (acknowledge vec s) := by
  unfold acknowledge
  split
  · exact same_intc s _
  · split
    · exact same_ubc s _
    · split
      · exact same_intc s _
      · exact Same.refl s

/-- Acceptance changes the request it takes alone. -/
theorem acceptance_same {s t : State} {vec : Nat} {l : Option Nat} (h : acceptance s = some (vec, l, t)) : Same s t := by
  unfold acceptance at h
  split at h
  · cases h
    exact acknowledge_same 12 s
  · split at h
    · cases h
      exact same_dtc s _
    · split at h
      · cases h
      · split at h
        · cases h
        · cases h
          exact acknowledge_same _ s

theorem fetchDecode_chip {latch : State → State} {k : Instr → State → Result} (h : Proceeds s t)
    (hl : ∀ u, OnlyUbc u (latch u)) (hk : ∀ i u, Proceeds s u → Ends (SameChip s) (k i u)) :
    Ends (SameChip s) (fetchDecode latch t k) := by
  have hf := fetchHalf_same t t.pc
  unfold fetchDecode
  split
  · next u e =>
    rw [e] at hf
    exact fetchAddressError_chip ((h.same hf).only (hl u))
  · trivial
  · next w u e =>
    rw [e] at hf
    have hu := h.same hf
    split
    · exact hk _ u hu
    · exact raiseException_chip _ (hu.only (hl u))
    · trivial
    · trivial

theorem runDecoded_chip (hits : FetchHits) (i : Instr) (h : Proceeds s t) :
    Ends (SameChip s) (runDecoded hits i t) :=
  Ends.mapNext (exec_chip i (h.only (ubcPost_only hits t))) fun _ hu => ⟨hu.part, hu.mode⟩

theorem boundaryDecoded_chip (hits : FetchHits) (i : Instr) (h : Proceeds s t) :
    Ends (SameChip s) (boundaryDecoded hits i t) := by
  have hx : OnlyUbc t (if takesSlot i t then ubcFetchHits (t.pc + 2) t else (noHits t, t)).2 := by
    split
    · exact ubcFetchHits_only _ t
    · exact OnlyUbc.refl t
  unfold boundaryDecoded
  generalize (if takesSlot i t then ubcFetchHits (t.pc + 2) t else (noHits t, t)) = x at hx
  dsimp only
  have hb := (h.only hx).only (latchPre_only hits x.2)
  split
  · exact enter_chip _ _ _ (hb.only (ubcPre_only _ _))
  · split
    · next e => exact enter_chip _ _ _ ((h.only hx).same (acceptance_same e))
    · exact runDecoded_chip _ _ ((hb.only (latchPre_only _ _)).only (ubcMark_only _))

theorem runBoundary_chip (h : Proceeds s t) : Ends (SameChip s) (runBoundary t) := by
  have hm : OnlyUbc t (ubcMark (if t.irqBlock then t else ubcBoundary t)) := by
    refine OnlyUbc.trans ?_ (ubcMark_only _)
    split
    · exact OnlyUbc.refl t
    · exact ubcBoundary_only t
  unfold runBoundary
  generalize ubcMark (if t.irqBlock then t else ubcBoundary t) = u at hm
  dsimp only
  have hf := (h.only hm).only (ubcFetchHits_only u.pc u)
  split
  · exact enter_chip _ _ _ (hf.only (ubcPre_only _ _))
  · exact fetchDecode_chip hf (fun w => (latchPre_only _ w).trans (ubcMark_only _))
      fun i w hw => boundaryDecoded_chip _ i hw

theorem runSlot_chip (d : DelaySlot) (h : Proceeds s t) : Ends (SameChip s) (runSlot d t) := by
  refine fetchDecode_chip h OnlyUbc.refl fun i u hu => runDecoded_chip _ i ?_
  have hf := hu.only (ubcFetchHits_only u.pc u)
  split
  · exact hf.only (latchPre_only _ _)
  · exact hf

theorem runInstruction_chip (h : Proceeds s t) : Ends (SameChip s) (runInstruction t) := by
  unfold runInstruction
  split
  · exact runBoundary_chip h
  · exact runSlot_chip _ h

theorem resetRead_chip (a : Nat) {k : Word → State → Result} (h : Proceeds s t)
    (hk : ∀ v u, Proceeds s u → Ends (SameChip s) (k v u)) : Ends (SameChip s) (resetRead a t k) := by
  refine beforeAccess_chip _ h fun u hu => ?_
  have hr := cpuRead_proceeds .long (BitVec.ofNat 32 a) hu
  split
  · trivial
  · trivial
  · next v w e =>
    rw [e] at hr
    exact hk v w hr

theorem resetSequence_chip (kind : ResetKind) (h : Proceeds s t) : Ends (SameChip s) (resetSequence kind t) :=
  resetRead_chip _ h fun _ _ h1 => resetRead_chip _ h1 fun _ _ h2 => ⟨h2.part, h2.mode⟩

end

theorem settle_core (s : State) : Core s (settle s) :=
  (((clearRaces_same s).trans (same_windows _ _)).trans (refreshQueue_same _)).core.trans (settleBus_core _)

/-- The CPU's own step never changes the part or the mode: in a power-on reset it does nothing. -/
theorem cpuStep_chip (s : State) : Ends (SameChip s) (cpuStep s) := by
  have hc := (clearRaces_same s).chip
  have settles {r : Result} (h : Ends (SameChip s) r) : Ends (SameChip s) (mapNext settle r) :=
    h.mapNext fun t k => k.trans (settle_core t).chip
  unfold cpuStep
  dsimp only
  split
  · next hp =>
    exact .ite hc (settles (runInstruction_chip ⟨hc, by simp [hp]⟩))
  · next hp =>
    exact .ite hc (settles (resetSequence_chip _ ⟨hc, by simp [hp]⟩))
  all_goals exact hc

/-! ## The step of the machine -/

theorem otherStep_latch (e : Event) (s : State) : Ends (KeepsLatch e s) (otherStep e s) := by
  have ha := agentEvent_latch e s
  unfold otherStep
  split
  · next t h => exact (ha t h).after ((same_windows t _).core.trans (settleBus_core _)).chip
  · trivial

theorem applyEvent_latch (e : Event) (s : State) : Ends (KeepsLatch e s) (applyEvent e s) := by
  cases e with
  | cpu => exact (cpuStep_chip s).mono fun _ k => k.keepsLatch _
  | dtc | ptick | pin | line | clockStop | audRead | audWrite | external => exact otherStep_latch _ s

/-- The part is equal, and so is the mode unless RES rises in the power-on reset state as the next event. -/
def LatchStep (s t : State) : Prop :=
  t.part = s.part ∧ (t.mode ≠ s.mode → s.proc = .resetHeld .powerOn ∧ ∃ rest, s.agenda = .pin .res true :: rest)

theorem SameChip.latchStep {s t : State} (h : SameChip s t) : LatchStep s t := ⟨h.part, fun hm => absurd h.mode hm⟩

/-- An event other than RES rising leaves the part and the mode. -/
theorem KeepsLatch.chip_of_ne {e : Event} {s t : State} (h : KeepsLatch e s t) (he : e ≠ .pin .res true) :
    SameChip s t :=
  ⟨h.part, by_contra fun hm => he (h.latch hm).2⟩

theorem schedule_latchStep (s : State) : Ends (LatchStep s) (schedule s) := by
  unfold schedule
  split
  · next e rest ha =>
    refine (applyEvent_latch e { s with agenda := rest }).mono fun t h => ⟨h.part, fun hm => ?_⟩
    obtain ⟨hp, rfl⟩ := h.latch hm
    exact ⟨hp, rest, ha⟩
  · have turn (u : State) (hu : SameChip s u) (e : Event) (he : e ≠ .pin .res true) :
        Ends (LatchStep s) (otherStep e u) :=
      (otherStep_latch e u).mono fun t h => (hu.trans (h.chip_of_ne he)).latchStep
    split
    · exact (cpuStep_chip _).mono fun t h => SameChip.latchStep ⟨h.part, h.mode⟩
    · exact turn { s.drawBit.2 with turn := .ptick } ⟨rfl, rfl⟩ (.dtc s.drawBit.1) Event.noConfusion
    · exact turn { s with turn := .cpu } ⟨rfl, rfl⟩ (.ptick false) Event.noConfusion

/-- Settles O48: of all that a step can come to, the release of a power-on reset alone latches a mode. -/
theorem modeLatchedAtReset : Obligations.ModeLatchedAtReset := by
  unfold Obligations.ModeLatchedAtReset
  intro s t h
  have hs := schedule_latchStep s
  unfold step at h
  split at h
  · cases h
  · cases h
  all_goals exact hs.next h

end Sys2Proof.Machine
end

section
/-! PROOF. What is carried along an instruction (statements O45 to O47): if every shared operation of the meanings keeps a
property, and every register an instruction writes may be written, the instruction keeps it, whatever falls between its
accesses. The statements about whole instructions are uses of this. -/

namespace Sys2Proof.Machine

/-- What a point between two accesses brings: the CPU's step goes on in a state with `P`, or was abandoned in one with `Q`. -/
def Flow.Brings (P Q : State → Prop) : Flow → Prop
  | .go t => P t
  | .abandoned t => Q t
  | .stop _ => True

/-- `P` stays along a step of the CPU, and `Q` holds where it ends: through the accesses, through what falls between them, and
through the updates that every instruction may make. -/
structure Carries (P Q : State → Prop) : Prop where
  point : ∀ {t : State} (a : Word), P t → (between a t).Brings P Q
  read : ∀ {t : State} (z : Size) (a : Word), P t → (cpuRead t z a).Lands P
  write : ∀ {t : State} (z : Size) (a v : Word), P t → (cpuWrite t z a v).Lands P
  spoil : ∀ {t : State} (z : Size) (a : Word), P t → P (spoilContainer z a t)
  draw : ∀ {t : State}, P t → P t.drawWord.2
  cancel : ∀ {t : State} (keep : Bool), P t → P (ubcCancel keep t)
  trace : ∀ {t : State} (src dst : Word), P t → P (clearStale (pcTrace src dst t))
  reg : ∀ {t : State} (n : Reg) (v : Word), P t → P (t.setReg n v)
  pc : ∀ {t : State} (a : Word), P t → P { t with pc := a }
  block : ∀ {t : State} (b : Bool), P t → P { t with irqBlock := b }
  close : ∀ {t : State}, P t → P { t with slot := none }
  /-- An exception in a delay slot takes the branch back, and with it PR. -/
  undo : ∀ {t : State} {d : DelaySlot}, t.slot = some d → P t → P { t with pr := d.prBefore }
  /-- A delayed branch opens its slot. -/
  delay : ∀ {t : State} (d : DelaySlot), P t → Q { t with slot := some d }
  ends : ∀ {t : State}, P t → Q t
  cancelEnd : ∀ {t : State} (keep : Bool), Q t → Q (ubcCancel keep t)

section
variable {P Q : State → Prop} {t : State} (c : Carries P Q)
include c

/-! ## Ends and branches -/

theorem carry_advance (h : P t) : P (advance t) := by
  unfold advance
  split
  · exact c.pc _ h
  · next d _ => exact c.trace _ _ (c.close (c.pc d.target h))

theorem carry_finish (h : P t) : Ends Q (finish t) := c.ends (c.block false (carry_advance c h))

theorem carry_finishBlocking (h : P t) : Ends Q (finishBlocking t) := c.ends (c.block true (carry_advance c h))

theorem carry_branchTo (target : Word) (h : P t) : Ends Q (branchTo target t) :=
  c.ends (c.trace t.pc target (c.block false (c.pc target h)))

theorem carry_delayedBranch (target pr : Word) (rte : Bool) (h : P t) : Ends Q (delayedBranch target pr rte t) :=
  c.delay _ (c.block false (c.pc (t.pc + 2) h))

/-! ## Exceptions -/

theorem carry_beforeAccess (a : Word) {k : State → Result} (h : P t) (hk : ∀ u, P u → Ends Q (k u)) :
    Ends Q (beforeAccess a t k) := by
  have hp := c.point a h
  unfold beforeAccess
  cases e : between a t with
  | go u => rw [e] at hp; exact hk u hp
  | abandoned u => rw [e] at hp; exact hp
  | stop f => trivial

theorem carry_pushWrite (a v : Word) (open_ : Bool) {k : Bool → State → Result} (h : P t)
    (hk : ∀ b u, P u → Ends Q (k b u)) : Ends Q (pushWrite a v open_ t k) := by
  refine carry_beforeAccess c a h fun u hu => ?_
  have hw := c.write .long a v hu
  cases e : cpuWrite u .long a v with
  | ok x w => rw [e] at hw; exact hk _ w hw
  | addressError w => rw [e] at hw; exact hk _ w hw
  | stop f => trivial

theorem carry_pushEntry (v : Word) {k : Bool → State → Result} (h : P t) (hk : ∀ b u, P u → Ends Q (k b u)) :
    Ends Q (pushEntry v t k) := by
  have hr : P (t.setReg 15 (t.reg 15 - 4)) := c.reg _ _ h
  unfold pushEntry
  dsimp only
  split
  · exact carry_pushWrite c _ _ _ (c.draw hr) hk
  · exact carry_pushWrite c _ _ _ hr hk

theorem carry_jumpVector (vec : Nat) (saved : Word) {k : State → Result} (h : P t) (hk : ∀ u, P u → Ends Q (k u)) :
    Ends Q (jumpVector vec saved t k) := by
  unfold jumpVector
  dsimp only
  split
  · trivial
  · refine carry_beforeAccess c _ h fun u hu => ?_
    have hr := c.read .long (t.vbr + BitVec.ofNat 32 (4 * vec)) hu
    split
    · next v w e =>
      rw [e] at hr
      exact hk _ (c.trace saved v (c.block false (c.close (c.pc v hr))))
    · trivial
    · trivial

/-- One entry, whose new mask, if there is one, keeps the property. -/
theorem carry_enterOnce (vec : Nat) (saved : Word) {l : Option Nat} {k : Bool → State → Result}
    (hl : ∀ u, P u → P (raiseMask l u)) (h : P t) (hk : ∀ b u, P u → Ends Q (k b u)) :
    Ends Q (enterOnce vec saved l t k) :=
  carry_pushEntry c _ h fun _ _ h1 =>
    carry_pushEntry c _ h1 fun _ u h2 => carry_jumpVector c vec saved (hl u h2) (hk _)

theorem carry_enterAddressError (saved : Word) (h : P t) : Ends Q (enterAddressError saved t) :=
  carry_enterOnce c 9 saved (l := none) (fun _ hu => hu) h fun _ _ hu => c.ends hu

theorem carry_enter (vec : Nat) (saved : Word) {l : Option Nat} (hl : ∀ u, P u → P (raiseMask l u)) (h : P t) :
    Ends Q (enter vec saved l t) := by
  refine carry_enterOnce c vec saved hl h fun bad u hu => ?_
  cases bad
  · exact c.ends hu
  · exact carry_enterAddressError c u.pc hu

theorem carry_raiseWith (keep : Bool) {entry : Word → State → Result} (h : P t)
    (he : ∀ pc u, P u → Ends Q (entry pc u)) : Ends Q (raiseWith keep t entry) := by
  have hc := c.cancel keep h
  rcases raiseWith_cases keep t entry with ⟨-, e⟩ | ⟨d, -, -, e⟩ | ⟨d, hd, -, e⟩ <;> rw [e]
  · exact he _ _ hc
  · trivial
  · exact he _ _ (c.undo (t := ubcCancel keep t) hd hc)

theorem carry_raiseException (vec : Nat) (h : P t) : Ends Q (raiseException vec t) :=
  carry_raiseWith c false h fun pc _ hu => carry_enter c vec pc (fun _ hv => hv) hu

theorem carry_addressErrorException (h : P t) : Ends Q (addressErrorException t) :=
  carry_raiseWith c true h fun pc _ hu => carry_enterAddressError c pc hu

theorem carry_fetchAddressError (h : P t) : Ends Q (fetchAddressError t) :=
  carry_raiseWith c false h fun pc _ hu => carry_enterAddressError c pc hu

theorem carry_notInSlot {k : State → Result} (h : P t) (hk : Ends Q (k t)) : Ends Q (notInSlot t k) := by
  unfold notInSlot
  split
  · exact hk
  · exact carry_raiseException c 6 h

theorem carry_trap (vec : Nat) (h : P t) : Ends Q (trap vec t) :=
  Ends.mapNext (carry_enter c vec (t.pc + 2) (l := none) (fun _ hu => hu) (c.cancel true h)) fun _ => c.cancelEnd true

/-! ## Loads and stores -/

theorem carry_loadOr (z : Size) (a : Word) {f : Word → State → State} {k : Word → State → Result}
    (hf : ∀ v u, P u → P (f v u)) (h : P t) (hk : ∀ v u, P u → Ends Q (k v u)) : Ends Q (loadOr z a f t k) := by
  refine carry_beforeAccess c a h fun u hu => ?_
  have hr := c.read z a hu
  cases e : cpuRead u z a with
  | ok v w => rw [e] at hr; exact hk v w hr
  | addressError w =>
    rw [e] at hr
    refine carry_addressErrorException c ?_
    unfold spoilDestination
    split
    · exact hf _ _ (c.draw hr)
    · exact hr
  | stop g => trivial

theorem carry_load (z : Size) (a : Word) {k : Word → State → Result} (h : P t) (hk : ∀ v u, P u → Ends Q (k v u)) :
    Ends Q (load z a t k) :=
  carry_loadOr c z a (fun _ _ hu => hu) h hk

theorem carry_loadTo (z : Size) (a : Word) (n : Reg) {update : State → State} (hu : ∀ u, P u → P (update u)) (h : P t) :
    Ends Q (loadTo z a n update t) :=
  carry_loadOr c z a (fun v _ k => c.reg n v k) h fun _ u k => carry_finish c (c.reg n _ (hu u k))

theorem carry_storeNow (z : Size) (a v : Word) {k : State → Result} (h : P t) (hk : ∀ u, P u → Ends Q (k u)) :
    Ends Q (storeNow z a v t k) := by
  have hw := c.write z a v h
  unfold storeNow
  split
  · next u e => rw [e] at hw; exact hk u hw
  · next u e => rw [e] at hw; exact carry_addressErrorException c (c.spoil z a hw)
  · trivial

theorem carry_store (z : Size) (a v : Word) {k : State → Result} (h : P t) (hk : ∀ u, P u → Ends Q (k u)) :
    Ends Q (store z a v t k) :=
  carry_beforeAccess c a h fun _ hu => carry_storeNow c z a v hu hk

theorem carry_modifyByte (a : Word) (f : Word → Word) (h : P t) : Ends Q (modifyByte a t f) :=
  carry_load c .byte a h fun _ _ hu => carry_store c .byte a _ hu fun _ hw => carry_finish c hw

theorem carry_multiplyAccumulate (z : Size) (step : Word) (m n : Reg) {k : Word → Word → State → State}
    (hk : ∀ a b u, P u → P (k a b u)) (h : P t) : Ends Q (multiplyAccumulate z step m n t k) :=
  carry_load c z _ h fun _ _ h1 =>
    carry_load c z _ h1 fun _ _ h2 => carry_finish c (hk _ _ _ (c.reg m _ (c.reg n _ h2)))

theorem carry_loadSystem (m : Reg) {spoil k : Word → State → State} (hs : ∀ v u, P u → P (spoil v u))
    (hk : ∀ v u, P u → P (k v u)) (h : P t) : Ends Q (loadSystem m spoil t k) :=
  carry_loadOr c .long _ hs h fun v _ hu => carry_finishBlocking c (hk v _ (c.reg m _ hu))

theorem carry_storeSystem (n : Reg) (v : Word) (h : P t) : Ends Q (storeSystem n t v) :=
  carry_store c .long _ v h fun _ hu => carry_finishBlocking c (c.reg n _ hu)

theorem carry_returnFromException (hsr : ∀ v u, P u → P (u.writeSr v)) (h : P t) :
    Ends Q (returnFromException t) :=
  carry_load c .long _ h fun _ _ h1 =>
    carry_load c .long _ h1 fun v _ h2 => carry_delayedBranch c _ _ true (hsr v _ (c.reg 15 _ h2))

end

/-! ## The instructions -/

/-- `P` allows an instruction every write to SR and to the special registers that rule R33 and rules R26 to R29 give it. -/
structure Grants (i : Instr) (P : State → Prop) : Prop where
  t : i.writesT = true → ∀ b u, P u → P (u.setT b)
  q : i.writesQ = true → ∀ b u, P u → P (u.setQ b)
  m : i.writesM = true → ∀ b u, P u → P (u.setM b)
  sr : i.writesSr = true → ∀ v u, P u → P (u.writeSr v)
  gbr : i.writes .gbr = true → ∀ v u, P u → P { u with gbr := v }
  vbr : i.writes .vbr = true → ∀ v u, P u → P { u with vbr := v }
  mach : i.writes .mach = true → ∀ v u, P u → P { u with mach := v }
  macl : i.writes .macl = true → ∀ v u, P u → P { u with macl := v }
  pr : i.writes .pr = true → ∀ v u, P u → P { u with pr := v }

/-- A PC-relative transfer stops in a delay slot. -/
theorem pcRelative_ends {Q : State → Prop} {t : State} {k : State → Result} (hk : Ends Q (k t)) :
    Ends Q (pcRelative t k) := by
  unfold pcRelative
  split
  · exact hk
  · trivial

section
variable {i : Instr} {P : State → Prop} {u : State}

theorem Grants.mac (g : Grants i P) (hh : i.writes .mach = true) (hl : i.writes .macl = true) (a b : Word) (h : P u) :
    P { u with mach := a, macl := b } :=
  g.macl hl b _ (g.mach hh a u h)

/-- MAC.W writes MACH and MACL alone. -/
theorem Grants.accumulateWord (g : Grants i P) (hh : i.writes .mach = true) (hl : i.writes .macl = true) (p : Int)
    (h : P u) : P (accumulateWord u p) := by
  unfold Machine.accumulateWord
  dsimp only
  split
  · split
    · exact g.mac hh hl _ _ h
    · split
      · exact g.mac hh hl _ _ h
      · exact g.macl hl _ u h
  · exact g.mac hh hl _ _ h

end

/-- An instruction other than SLEEP carries what the shared operations carry, if it is granted its own writes. -/
theorem carry_exec {P Q : State → Prop} {t : State} (c : Carries P Q) (i : Instr) (g : Grants i P) (hi : i ≠ .sleep)
    (h : P t) : Ends Q (exec i t) := by
  unfold exec
  cases i with
  | movImm | mov | movt | swapB | swapW | xtrct | add | addImm | extsB | extsW | extuB | extuW | neg | sub | andReg
  | andImm | notReg | orReg | orImm | xorReg | xorImm | shll2 | shlr2 | shll8 | shlr8 | shll16 | shlr16 =>
    exact carry_finish c (c.reg _ _ h)
  | nop => exact carry_finish c h
  | addc | addv | dt | negc | subc | subv | rotl | rotr | rotcl | rotcr | shal | shar | shll | shlr =>
    exact carry_finish c (g.t rfl _ _ (c.reg _ _ h))
  | cmpEqImm | cmpEq | cmpHs | cmpGe | cmpHi | cmpGt | cmpPl | cmpPz | cmpStr | tst | tstImm | clrt | sett =>
    exact carry_finish c (g.t rfl _ _ h)
  | div1 => exact carry_finish c (g.t rfl _ _ (g.q rfl _ _ (c.reg _ _ h)))
  | div0s => exact carry_finish c (g.t rfl _ _ (g.m rfl _ _ (g.q rfl _ _ h)))
  | div0u => exact carry_finish c (g.t rfl _ _ (g.q rfl _ _ (g.m rfl _ _ h)))
  | dmulsL | dmuluL | clrmac => exact carry_finish c (g.mac rfl rfl _ _ h)
  | mulL | mulsW | muluW => exact carry_finish c (g.macl rfl _ _ h)
  | macL m n =>
    exact carry_multiplyAccumulate c _ _ m n (fun _ _ _ k => g.mac rfl rfl _ _ k) h
  | macW m n =>
    exact carry_multiplyAccumulate c _ _ m n (fun _ _ _ k => g.accumulateWord rfl rfl _ k) h
  | ldcGbr => exact carry_finishBlocking c (g.gbr rfl _ _ h)
  | ldcVbr => exact carry_finishBlocking c (g.vbr rfl _ _ h)
  | ldsMach => exact carry_finishBlocking c (g.mach rfl _ _ h)
  | ldsMacl => exact carry_finishBlocking c (g.macl rfl _ _ h)
  | ldsPr => exact carry_finishBlocking c (g.pr rfl _ _ h)
  | stcSr | stcGbr | stcVbr | stsMach | stsMacl | stsPr => exact carry_finishBlocking c (c.reg _ _ h)
  | movBLoad | movWLoad | movLLoad | movBLoadDisp | movWLoadDisp | movLLoadDisp | movBLoadIdx | movWLoadIdx | movLLoadIdx
  | movBLoadGbr | movWLoadGbr | movLLoadGbr =>
    exact carry_loadTo c _ _ _ (fun _ k => k) h
  | movBLoadInc m | movWLoadInc m | movLLoadInc m => exact carry_loadTo c _ _ _ (fun _ k => c.reg m _ k) h
  | movWPc | movLPc => exact pcRelative_ends (carry_loadTo c _ _ _ (fun _ k => k) h)
  | mova => exact pcRelative_ends (carry_finish c (c.reg 0 _ h))
  | movBStore | movWStore | movLStore | movBStoreDisp | movWStoreDisp | movLStoreDisp | movBStoreIdx | movWStoreIdx
  | movLStoreIdx | movBStoreGbr | movWStoreGbr | movLStoreGbr =>
    exact carry_store c _ _ _ h fun _ k => carry_finish c k
  | movBStoreDec _ n | movWStoreDec _ n | movLStoreDec _ n =>
    exact carry_store c _ _ _ h fun _ k => carry_finish c (c.reg n _ k)
  | andB | orB | xorB => exact carry_modifyByte c _ _ h
  | tasB =>
    exact carry_load c _ _ h fun _ _ k => carry_storeNow c _ _ _ k fun _ l => carry_finish c (g.t rfl _ _ l)
  | tstB => exact carry_load c _ _ h fun _ _ k => carry_finish c (g.t rfl _ _ k)
  | bf => exact carry_notInSlot c h (.ite (carry_finish c h) (carry_branchTo c _ h))
  | bt => exact carry_notInSlot c h (.ite (carry_branchTo c _ h) (carry_finish c h))
  | bfS => exact carry_notInSlot c h (.ite (carry_finish c h) (carry_delayedBranch c _ _ _ h))
  | btS => exact carry_notInSlot c h (.ite (carry_delayedBranch c _ _ _ h) (carry_finish c h))
  | bra | braf | jmp | rts => exact carry_notInSlot c h (carry_delayedBranch c _ _ _ h)
  | bsr | bsrf | jsr => exact carry_notInSlot c h (carry_delayedBranch c _ _ _ (g.pr rfl _ _ h))
  | ldcSr => exact carry_notInSlot c h (carry_finishBlocking c (g.sr rfl _ _ h))
  | ldcLSr m =>
    exact carry_notInSlot c h
      (carry_loadSystem c m (fun v u k => g.t rfl _ _ (g.sr rfl v u k)) (g.sr rfl) h)
  | ldcLGbr m => exact carry_loadSystem c m (g.gbr rfl) (g.gbr rfl) h
  | ldcLVbr m => exact carry_loadSystem c m (g.vbr rfl) (g.vbr rfl) h
  | ldsLMach m => exact carry_loadSystem c m (fun _ _ k => k) (g.mach rfl) h
  | ldsLMacl m => exact carry_loadSystem c m (fun _ _ k => k) (g.macl rfl) h
  | ldsLPr m => exact carry_loadSystem c m (fun _ _ k => k) (g.pr rfl) h
  | stcLSr n | stcLGbr n | stcLVbr n | stsLMach n | stsLMacl n | stsLPr n => exact carry_storeSystem c n _ h
  | rte => exact carry_notInSlot c h (carry_returnFromException c (g.sr rfl) h)
  | sleep => exact absurd rfl hi
  | trapa => exact carry_notInSlot c h (carry_trap c _ h)

end Sys2Proof.Machine
end

section
/-! PROOF. What an instruction writes of SR and of the special registers (statements O46 and O47). -/

namespace Sys2Proof.Machine

/-- SR and the special registers are equal. -/
structure SameControl (s t : State) : Prop where
  sr : t.sr = s.sr
  special : ∀ x, t.special x = s.special x

theorem Core.control {s t : State} (h : Core s t) : SameControl s t := ⟨h.sr, h.special⟩

/-- Rule R33: the instructions that write a bit of SR, T, Q and M apart. -/
def writesBit (i : Instr) (k : Nat) : Bool :=
  if k = 0 then i.writesT else if k = 8 then i.writesQ else if k = 9 then i.writesM else i.writesSr

/-- What writes SR as a whole writes every bit of it. -/
theorem writesBit_of_writesSr {i : Instr} (h : i.writesSr = true) (k : Nat) : writesBit i k = true := by
  have hall : i.writesT = true ∧ i.writesQ = true ∧ i.writesM = true := by
    unfold Instr.writesSr at h
    split at h
    · exact ⟨rfl, rfl, rfl⟩
    · exact ⟨rfl, rfl, rfl⟩
    · exact ⟨rfl, rfl, rfl⟩
    · cases h
  obtain ⟨ht, hq, hm⟩ := hall
  unfold writesBit
  split_ifs <;> assumption

/-- What instruction `i`, begun in `s`, has left of SR and the special registers: all that it does not write. PR may be the
one of before the branch that an exception in a delay slot took back. -/
structure Kept (i : Instr) (s t : State) : Prop where
  bit : ∀ k, writesBit i k = false → bitOf t.sr k = bitOf s.sr k
  special : ∀ x, i.writes x = false → (x = .pr → s.slot = none) → t.special x = s.special x

theorem Kept.same {i : Instr} {s t u : State} (h : Kept i s t) (k : SameControl t u) : Kept i s u :=
  ⟨fun j hj => by rw [k.sr]; exact h.bit j hj, fun x hx hp => (k.special x).trans (h.special x hx hp)⟩

/-- `Kept` inside the instruction: in program execution, and with no slot open that was not there before. -/
structure Held (i : Instr) (s t : State) : Prop extends Kept i s t where
  run : t.proc = .run
  slot : s.slot = none → t.slot = none

section
variable {i : Instr} {s t u : State}

theorem Held.core (h : Held i s t) (k : Core t u) : Held i s u :=
  ⟨h.toKept.same k.control, k.proc.trans h.run, fun e => k.slot.trans (h.slot e)⟩

/-- An update that leaves SR, the special registers and the processing state, and opens no slot. -/
theorem Held.update (h : Held i s t) (slot : t.slot = none → u.slot = none) (control : SameControl t u)
    (proc : u.proc = t.proc) : Held i s u :=
  ⟨h.toKept.same control, proc.trans h.run, fun e => slot (h.slot e)⟩

theorem Held.trace (h : Held i s t) (src dst : Word) : Held i s (clearStale (pcTrace src dst t)) := by
  obtain ⟨q, e⟩ := pcTrace_eq src dst t
  rw [e]
  exact h.update id ⟨rfl, fun x => by cases x <;> rfl⟩ rfl

/-- A special register that the instruction writes, or that an exception in a delay slot puts back. -/
theorem Held.setSpecial (h : Held i s t) (x : Special) (hx : i.writes x = true ∨ x = .pr ∧ s.slot ≠ none) (sr : u.sr = t.sr)
    (special : ∀ y, y ≠ x → u.special y = t.special y) (proc : u.proc = t.proc) (slot : u.slot = t.slot) : Held i s u := by
  refine ⟨⟨fun k hk => by rw [sr]; exact h.bit k hk, fun y hy hp => ?_⟩, proc.trans h.run, fun e => slot.trans (h.slot e)⟩
  have hne : y ≠ x := by
    rintro rfl
    rcases hx with hx | ⟨hx, hs⟩
    · rw [hx] at hy
      cases hy
    · exact hs (hp hx)
  exact (special y hne).trans (h.special y hy hp)

/-- Bits of SR that the instruction writes. -/
theorem Held.setBits (h : Held i s t) {v : Word} (hv : ∀ k, writesBit i k = false → bitOf v k = bitOf t.sr k) :
    Held i s { t with sr := v } :=
  ⟨⟨fun k hk => (hv k hk).trans (h.bit k hk), h.special⟩, h.run, h.slot⟩

theorem Held.setBit (h : Held i s t) {k : Nat} (hk : writesBit i k = true) (hw : k < 32) (b : Bool) :
    Held i s { t with sr := withBit t.sr k b } :=
  h.setBits fun j hj => by
    rw [bitOf_withBit _ _ _ _ hw, if_neg]
    rintro rfl
    rw [hk] at hj
    cases hj

end

/-- What another agent does between the accesses leaves the CPU, or a reset ends the step. -/
theorem held_carries (i : Instr) (s : State) : Carries (Held i s) fun t => t.proc = .run → Kept i s t where
  point {t} a h := by
    rcases between_cases a h.run with ⟨u, e, k⟩ | ⟨u, e, k⟩ | ⟨f, e⟩ <;> rw [e]
    · exact h.core k
    · exact fun hp => absurd hp k
    · trivial
  read z a h := (cpuRead_same _ z a).mono fun _ k => h.core k.core
  write z a v h := (cpuWrite_lands _ z a v).mono fun _ k => h.core k.core
  spoil z a h := h.core (spoilContainer_core z a _)
  draw h := h.core (drawWord_same _).core
  cancel keep h := h.core (ubcCancel_same keep _).core
  trace src dst h := h.trace src dst
  reg n v h := h.update id ⟨rfl, fun x => by cases x <;> rfl⟩ rfl
  pc a h := h.update id ⟨rfl, fun x => by cases x <;> rfl⟩ rfl
  block b h := h.update id ⟨rfl, fun x => by cases x <;> rfl⟩ rfl
  close h := h.update (fun _ => rfl) ⟨rfl, fun x => by cases x <;> rfl⟩ rfl
  undo {t d} hd h := by
    refine h.setSpecial .pr (.inr ⟨rfl, fun e => ?_⟩) rfl (fun y hy => ?_) rfl rfl
    · rw [h.slot e] at hd
      cases hd
    · cases y <;> first | rfl | exact absurd rfl hy
  delay d h _ := h.toKept.same ⟨rfl, fun x => by cases x <;> rfl⟩
  ends h _ := h.toKept
  cancelEnd keep h hp := (h hp).same (ubcCancel_same keep _).core.control

/-- An instruction may make the writes that the lists of rules R26 to R29 and R33 give it. -/
theorem held_grants (i : Instr) (s : State) : Grants i (Held i s) where
  t ht b u h := h.setBit (k := 0) (by simp [writesBit, ht]) (by decide) b
  q hq b u h := h.setBit (k := 8) (by simp [writesBit, hq]) (by decide) b
  m hm b u h := h.setBit (k := 9) (by simp [writesBit, hm]) (by decide) b
  sr hs v u h := h.setBits fun k hk => by simp [writesBit_of_writesSr hs] at hk
  gbr hx v u h := h.setSpecial .gbr (.inl hx) rfl (fun y hy => by cases y <;> first | rfl | exact absurd rfl hy) rfl rfl
  vbr hx v u h := h.setSpecial .vbr (.inl hx) rfl (fun y hy => by cases y <;> first | rfl | exact absurd rfl hy) rfl rfl
  mach hx v u h := h.setSpecial .mach (.inl hx) rfl (fun y hy => by cases y <;> first | rfl | exact absurd rfl hy) rfl rfl
  macl hx v u h := h.setSpecial .macl (.inl hx) rfl (fun y hy => by cases y <;> first | rfl | exact absurd rfl hy) rfl rfl
  pr hx v u h := h.setSpecial .pr (.inl hx) rfl (fun y hy => by cases y <;> first | rfl | exact absurd rfl hy) rfl rfl

theorem advance_control (s : State) : SameControl s (advance s) := ⟨by simp, fun x => by cases x <;> simp [State.special]⟩

/-- SLEEP writes none of SR and the special registers, unless deep software standby cuts the power. -/
theorem lowPower_control (s : State) : Ends (fun t => t.proc ≠ .deep → SameControl s t) (lowPower s) := by
  have ha := advance_control s
  have low (u : State) (k : SameControl (advance s) u) : u.proc ≠ .deep → SameControl s u :=
    fun _ => ⟨k.sr.trans ha.sr, fun x => (k.special x).trans (ha.special x)⟩
  unfold lowPower
  split_ifs
  · trivial
  · exact low _ ⟨rfl, fun x => by cases x <;> rfl⟩
  · trivial
  · exact low _ ⟨rfl, fun x => by cases x <;> rfl⟩
  · trivial
  · exact fun hd => absurd rfl hd
  · trivial

/-- The instruction keeps all of SR and the special registers that it does not write. -/
theorem exec_kept {i : Instr} {s t : State} (h : exec i s = .next t) (hs : s.proc = .run)
    (ht : t.proc = .run ∨ (i = .sleep ∧ t.proc ≠ .deep)) : Kept i s t := by
  have start : Kept i s s := ⟨fun _ _ => rfl, fun _ _ _ => rfl⟩
  by_cases hi : i = .sleep
  · subst hi
    refine start.same ((lowPower_control s).next h ?_)
    rcases ht with hp | ⟨-, hp⟩
    · rw [hp]
      decide
    · exact hp
  · have hp : t.proc = .run := ht.resolve_right fun e => hi e.1
    exact (carry_exec (held_carries i s) i (held_grants i s) hi ⟨start, hs, id⟩).next h hp

/-- The mask is its four bits. -/
theorem mask_congr {s t : State} (h : ∀ k, 4 ≤ k → k < 8 → bitOf t.sr k = bitOf s.sr k) : t.mask = s.mask := by
  unfold State.mask
  refine congrArg BitVec.toNat (BitVec.eq_of_getLsbD_eq fun i hi => ?_)
  have hb := h (4 + i) (by omega) (by omega)
  simpa [bitOf, hi] using hb

/-- Settles O46: every way through an instruction is carried, and its own writes are the listed ones. -/
theorem onlyTheseWriteFlags : Obligations.OnlyTheseWriteFlags := by
  unfold Obligations.OnlyTheseWriteFlags
  intro i s t h hs ht
  have hb := (exec_kept h hs ht).bit
  refine ⟨fun w => hb 0 w, fun w => hb 1 w, fun w => hb 8 w, fun w => hb 9 w, fun w => mask_congr fun k h4 h8 => hb k ?_⟩
  unfold writesBit
  rw [if_neg (by omega), if_neg (by omega), if_neg (by omega)]
  exact w

/-- Settles O47: of the special registers too an instruction writes the listed ones alone. -/
theorem onlyTheseWriteSpecials : Obligations.OnlyTheseWriteSpecials := by
  unfold Obligations.OnlyTheseWriteSpecials
  intro i s t x h hs ht
  exact (exec_kept h hs ht).special x

end Sys2Proof.Machine
end

section
/-! PROOF. The bounds of the modules' state (statement O45): DTCVBR's low bits and the length of the PC trace queue, through
every access, every step of the DTC and every value put into a register. What the accesses do to the memories and to SR is
`Core`. -/

namespace Sys2Proof.Machine

/-- DTCVBR's low bits are 0, and the trace queue holds at most two entries (rules R508, R559). -/
structure Bounded (s : State) : Prop where
  dtcvbr : s.dtc.dtcvbr &&& 0xFFF = 0
  trace : s.ubc.trace.length ≤ 2

/-- An update that leaves both. -/
theorem Bounded.keep {s t : State} (h : Bounded s) (dtcvbr : t.dtc.dtcvbr = s.dtc.dtcvbr)
    (trace : t.ubc.trace = s.ubc.trace) : Bounded t :=
  ⟨dtcvbr ▸ h.dtcvbr, trace ▸ h.trace⟩

theorem Bounded.drawWord {s : State} (h : Bounded s) : Bounded s.drawWord.2 := h.keep rfl rfl

theorem Bounded.drawBit {s : State} (h : Bounded s) : Bounded s.drawBit.2 := h.keep rfl rfl

theorem Bounded.setTrace {s : State} (h : Bounded s) {q : List TraceEntry} (hq : q.length ≤ 2) : Bounded (s.setTrace q) :=
  ⟨h.dtcvbr, hq⟩

/-- What is written to DTCVBR has its low bits 0. -/
theorem dtcvbr_write (v : Word) : (v &&& 0xFFFFF000) &&& 0xFFF = 0 := by
  rw [BitVec.and_assoc]
  exact BitVec.and_zero

section
variable {s : State} (h : Bounded s)
include h

/-! ## The UBC -/

theorem requestDataBreak_bounded (k o : Bool) : Bounded (requestDataBreak k o s) := by
  unfold requestDataBreak
  split <;> exact h.keep rfl rfl

theorem requestFetchBreak_bounded : Bounded (requestFetchBreak s) := h.keep rfl rfl

theorem ubcCount_bounded (k : Bool) : Bounded (ubcCount k s) := by
  unfold ubcCount
  split <;> exact h.keep rfl rfl

theorem ubcMet_bounded (r : UbcRegs) (k i j a b : Bool) : Bounded (ubcMet r k i j a b s).2 := by
  have hc (c : Bool) : Bounded (if c = true then ubcCount k s else s) := by
    split
    · exact ubcCount_bounded h k
    · exact h
  unfold ubcMet
  dsimp only
  exact (hc _).keep rfl rfl

omit h in
theorem settleLag_bounded (l : List UbcView) {s : State} (h : Bounded s) : Bounded (settleLag l s).2 := by
  induction l generalizing s with
  | nil => exact h
  | cons r rest ih =>
    unfold settleLag
    dsimp only
    split
    · exact ih h.drawBit
    · exact h.keep rfl rfl

theorem ubcEffective_bounded : Bounded (ubcEffective s).2 := by
  unfold ubcEffective
  split
  · exact h
  · exact (settleLag_bounded _ h).keep rfl rfl

theorem ubcObserve_bounded (c : BusCycle) : Bounded (ubcObserve c s) := by
  unfold ubcObserve
  split
  · exact h
  · have hd : Bounded (ubcEffective s).2.drawBit.2.drawBit.2 := (ubcEffective_bounded h).drawBit.drawBit
    have hm (r : UbcRegs) (k i j a b : Bool) := ubcMet_bounded hd r k i j a b
    dsimp only
    split
    · split
      · exact requestFetchBreak_bounded (hm _ _ _ _ _ _)
      · exact requestDataBreak_bounded (hm _ _ _ _ _ _) _ _
    · exact hm _ _ _ _ _ _

theorem observeCpu_bounded (w : Bool) (z : Size) (a v : Word) : Bounded (observeCpu w z a v s) := by
  unfold observeCpu
  dsimp only
  split
  · exact ubcObserve_bounded (ubcObserve_bounded h _) _
  · exact ubcObserve_bounded h _

theorem traceWord_bounded (b : Bool) (x : BitVec 28) : Bounded (traceWord b x s).2 := by
  unfold traceWord
  split
  · exact h
  · exact h.keep rfl rfl

theorem brsrWord_bounded : Bounded (brsrWord s).2 := by
  unfold brsrWord
  split <;> exact traceWord_bounded h _ _

theorem brdrWord_bounded : Bounded (brdrWord s).2 := by
  unfold brdrWord
  split <;> exact traceWord_bounded h _ _

theorem brdrRead_bounded : Bounded (brdrRead s).2 := by
  unfold brdrRead
  split
  · exact brdrWord_bounded h
  · split
    · exact h.keep rfl rfl
    · exact brdrWord_bounded h

omit h in
theorem sourceRead_length (q : List TraceEntry) : (sourceRead q).length = q.length := by
  cases q <;> rfl

/-- Reading the trace queue takes from it. -/
theorem ubcRead_bounded (id : RegId) : Bounded (ubcRead id s).2 := by
  have hs : (sourceRead s.ubc.trace).length ≤ 2 := (sourceRead_length _).trans_le h.trace
  have hd : (s.ubc.trace.drop 1).length ≤ 2 := by
    rw [List.length_drop]
    exact (Nat.sub_le _ 1).trans h.trace
  unfold ubcRead
  dsimp only
  split
  all_goals first
    | exact h
    | exact (brsrWord_bounded h).setTrace hs
    | exact (brdrRead_bounded h).setTrace hd

theorem ubcReadBack_bounded (a : Word) : Bounded (ubcReadBack a s) := by
  unfold ubcReadBack
  split <;> exact h.keep rfl rfl

/-- A write to a UBC register may empty the queue. -/
theorem ubcPut_bounded (id : RegId) (v : Word) : Bounded (ubcPut id v s) := by
  unfold ubcPut
  dsimp only
  split
  case h_11 =>
    refine ⟨h.dtcvbr, ?_⟩
    dsimp only
    split
    · exact Nat.zero_le 2
    · exact h.trace
  all_goals exact h.keep rfl rfl

theorem forceSource_bounded (v : Word) : Bounded (forceSource v s) := by
  have ht := h.trace
  unfold forceSource
  split
  · next e => rw [e] at ht; exact h.setTrace ht
  · split
    · exact h.setTrace (Nat.le_succ 1)
    · exact h

theorem forceDestination_bounded (v : Word) : Bounded (forceDestination v s) := by
  have ht := h.trace
  unfold forceDestination
  split
  · next e => rw [e] at ht; exact h.setTrace ht
  · split
    · exact h.setTrace (Nat.le_succ 1)
    · exact h

/-- A branch drops the oldest of two entries. -/
theorem pcTrace_bounded (src dst : Word) : Bounded (pcTrace src dst s) := by
  unfold pcTrace
  split
  · refine h.setTrace ?_
    split <;> exact Nat.le_of_ble_eq_true rfl
  · exact h

/-! ## Reads -/

theorem intcRead_bounded (id : RegId) (t : Half) : Bounded (intcRead id t s).2 := by
  unfold intcRead
  split <;> exact h.keep rfl rfl

theorem cmtRead_bounded (id : RegId) (t : Half) : Bounded (cmtRead id t s).2 := by
  unfold cmtRead
  dsimp only
  split <;> exact h.keep rfl rfl

theorem regRead_bounded (id : RegId) (t : Word) : Bounded (regRead id t s).2 := by
  unfold regRead
  dsimp only
  split
  all_goals first
    | exact intcRead_bounded h _ _
    | exact ubcRead_bounded h _
    | exact cmtRead_bounded h _ _
    | exact h.keep rfl rfl

omit h in
theorem readParts_bounded (l : List RegPart) (acc : Word) {s : State} (h : Bounded s) :
    Bounded (readParts l acc s).2 := by
  induction l generalizing acc s with
  | nil => exact h
  | cons p rest ih =>
    unfold readParts
    exact ih _ (regRead_bounded h _ _)

theorem periphRead_bounded (z : Size) (a : Nat) : (periphRead s z a).Lands Bounded := by
  unfold periphRead
  dsimp only
  split
  · split
    · exact h
    · exact Bounded.keep h rfl rfl
    · trivial
  · split
    · trivial
    · exact readParts_bounded _ _ h

theorem flashRead_bounded (z : Size) (a : Nat) : Bounded (flashRead s z a).2 := by
  have hp : Bounded (if 0 < s.windows.fmats then s.drawBit else (decide (s.flash.fmats = 0xAA), s)).2 := by
    split
    · exact h.keep rfl rfl
    · exact h
  unfold flashRead
  generalize (if 0 < s.windows.fmats then s.drawBit else (decide (s.flash.fmats = 0xAA), s)) = p at hp
  dsimp only
  split
  · split
    · exact hp
    · exact hp.keep rfl rfl
  · exact hp

theorem ramEnabled_bounded : Bounded (ramEnabled s).2 := by
  unfold ramEnabled
  split <;> exact h.keep rfl rfl

theorem ramCellRead_bounded (f : Bool) (z : Size) (a : Nat) : (ramCellRead f s z a).Lands Bounded := by
  have he := ramEnabled_bounded h
  unfold ramCellRead
  split
  · trivial
  · dsimp only
    split
    · exact he
    · split
      · trivial
      · exact Bounded.keep he rfl rfl

theorem ramRead_bounded (f : Bool) (z : Size) (a : Nat) : (ramRead f s z a).Lands Bounded := by
  unfold ramRead
  split
  · dsimp only
    split
    · split
      · trivial
      · exact flashRead_bounded h.drawBit.drawBit _ _
    · exact ramCellRead_bounded h.drawBit _ _ _
  · exact ramCellRead_bounded h _ _ _

theorem showsRam_bounded (a : Nat) : Bounded (showsRam s a).2 := by
  unfold showsRam
  split <;> exact h.keep rfl rfl

theorem romRead_bounded (f : Bool) (z : Size) (a : Nat) : (romRead f s z a).Lands Bounded := by
  unfold romRead
  split
  · trivial
  · split
    · trivial
    · dsimp only
      split
      · exact ramCellRead_bounded (showsRam_bounded h a) _ _ _
      · exact flashRead_bounded (showsRam_bounded h a) _ _

theorem externalRead_bounded (c k : Bool) (z : Size) (a : Nat) : (externalRead c k s z a).Lands Bounded := by
  unfold externalRead
  split
  · trivial
  · split
    · show Bounded _
      split <;> exact h.keep rfl rfl
    · trivial

theorem busRead_bounded (m : Master) (f : Bool) (z : Size) (a : Word) : (busRead m f s z a).Lands Bounded := by
  unfold busRead
  split
  · exact h
  · split
    · exact h
    · trivial
    · split
      · exact h
      · exact periphRead_bounded h z _
    · exact romRead_bounded h _ _ _
    · exact ramRead_bounded h _ _ _
    · exact externalRead_bounded h _ _ _ _
    · exact externalRead_bounded h _ _ _ _

theorem cpuRead_bounded (z : Size) (a : Word) : (cpuRead s z a).Lands Bounded := by
  have hb := busRead_bounded h .cpu false z a
  unfold cpuRead
  split
  · next v t e => rw [e] at hb; exact ubcReadBack_bounded (observeCpu_bounded hb _ _ _ _) a
  · next t e => rw [e] at hb; exact observeCpu_bounded (Bounded.drawWord hb) _ _ _ _
  · trivial

theorem dtcRead_bounded (z : Size) (a : Word) : (dtcRead s z a).Lands Bounded :=
  (busRead_bounded h .dtc false z a).bind (fun _ k => k) fun _ _ k => ubcObserve_bounded k _

omit h in
theorem staleChoice_bounded (l : List Stale) (a : Nat) (v : Half) {s : State} (h : Bounded s) :
    Bounded (staleChoice l a v s).2 := by
  induction l generalizing v s with
  | nil => exact h
  | cons e rest ih =>
    unfold staleChoice
    split
    · exact ih _ h.drawBit
    · exact ih _ h

theorem fetchHalf_bounded (a : Word) : (fetchHalf s a).Lands Bounded := by
  refine (busRead_bounded h .cpu true .word a).bind (fun _ k => k) fun v t k => ?_
  show Bounded _
  split
  · exact ubcObserve_bounded (staleChoice_bounded _ _ _ k) _
  · exact staleChoice_bounded _ _ _ k

/-! ## Writes -/

omit h in
/-- A write that is checked first. -/
theorem Access.Lands.checked {P : State → Prop} {c : Bool} {f : Fault} {t : State} (h : P t) :
    (if c = true then (.stop f : Access Unit) else .ok () t).Lands P := by
  cases c
  · exact h
  · trivial

theorem intcWrite_bounded (id : RegId) (v t : Half) : Bounded (intcWrite id v t s) := by
  unfold intcWrite
  dsimp only
  split <;> exact h.keep rfl rfl

theorem cmtWrite_bounded (id : RegId) (v t : Half) : Bounded (cmtWrite id v t s) := by
  unfold cmtWrite
  dsimp only
  split <;> exact h.keep rfl rfl

theorem ubcWrite_bounded (id : RegId) (v : Word) : (ubcWrite id v s).Lands Bounded := .checked (ubcPut_bounded h id v)

theorem frqcrWrite_bounded (v : Half) : (frqcrWrite v s).Lands Bounded := by
  unfold frqcrWrite
  dsimp only
  split
  · trivial
  · exact .checked (h.keep rfl rfl)

theorem bscPut_bounded (id : RegId) (v : Word) : Bounded (bscPut id v s) := by
  unfold bscPut
  split <;> exact h.keep rfl rfl

theorem bscWrite_bounded (id : RegId) (v : Word) : (bscWrite id v s).Lands Bounded := .checked (bscPut_bounded h id v)

theorem bscehrWrite_bounded (v t : Half) : (bscehrWrite v t s).Lands Bounded := .checked (h.keep rfl rfl)

omit h in
@[simp] theorem setEnableReg_dtcvbr (d : Dtc) (id : RegId) (v : Half) : (d.setEnableReg id v).dtcvbr = d.dtcvbr := by
  unfold Dtc.setEnableReg
  split <;> rfl

theorem dtcerPut_bounded (id : RegId) (v t : Half) : Bounded (dtcerPut id v t s) := h.keep (setEnableReg_dtcvbr _ _ _) rfl

theorem dtcerWrite_bounded (id : RegId) (v t : Half) : (dtcerWrite id v t s).Lands Bounded := by
  unfold dtcerWrite
  extract_lets busy
  split
  · trivial
  · exact dtcerPut_bounded h id v t

theorem enterModuleStandby_bounded (p q : Power) : Bounded (enterModuleStandby p q s) := by
  have cmt (b : Bool) {u : State} (hu : Bounded u) : Bounded (if b then { u with cmt := .reset } else u) := by
    split <;> exact hu.keep rfl rfl
  have ubc (b : Bool) {u : State} (hu : Bounded u) : Bounded (if b then { u with ubc := .reset } else u) := by
    split
    · exact ⟨hu.dtcvbr, Nat.zero_le 2⟩
    · exact hu
  unfold enterModuleStandby
  extract_lets rises u1 u2
  have h2 : Bounded u2 := ubc _ (cmt _ h)
  split <;> exact h2.keep rfl rfl

theorem emptyTrace_bounded : Bounded (emptyTrace s) := h.setTrace (Nat.zero_le 2)

theorem audInit_bounded : Bounded (audInit s) := (emptyTrace_bounded h).keep rfl rfl

theorem powerPut_bounded (id : RegId) (v : Byte) : Bounded (powerPut id v s) := by
  have hs (q : Power) : Bounded (enterModuleStandby s.power q { s with power := q }) :=
    enterModuleStandby_bounded (s := { s with power := q }) (h.keep rfl rfl) _ _
  unfold powerPut
  dsimp only
  split
  case h_6 =>
    split
    · exact hs _
    · exact audInit_bounded (hs _)
  case h_7 | h_8 => exact h.keep rfl rfl
  all_goals exact hs _

theorem powerWrite_bounded (id : RegId) (v : Byte) : (powerWrite id v s).Lands Bounded := .checked (powerPut_bounded h id v)

theorem flashPut_bounded (id : RegId) (v : Byte) : Bounded (flashPut id v s) := by
  unfold flashPut
  split <;> exact h.keep rfl rfl

theorem flashRegWrite_bounded (id : RegId) (v : Byte) : (flashRegWrite id v s).Lands Bounded := by
  unfold flashRegWrite
  split
  · exact h
  · split
    · trivial
    · split
      · exact h
      · exact flashPut_bounded h id v

theorem audPut_bounded (id : RegId) (v : Word) : Bounded (audPut id v s) := by
  unfold audPut
  dsimp only
  split
  case h_1 =>
    split
    · exact emptyTrace_bounded (h.keep rfl rfl)
    · exact h.keep rfl rfl
  all_goals exact h.keep rfl rfl

theorem audRegWrite_bounded (id : RegId) (v : Word) : (audRegWrite id v s).Lands Bounded := by
  unfold audRegWrite
  split
  · exact h
  · exact .checked (audPut_bounded h id v)

theorem regWrite_bounded (id : RegId) (v t : Word) : (regWrite id v t s).Lands Bounded := by
  unfold regWrite
  dsimp only
  split
  all_goals first
    | exact intcWrite_bounded h _ _ _
    | exact ubcWrite_bounded h _ _
    | exact cmtWrite_bounded h _ _ _
    | exact frqcrWrite_bounded h _
    | exact powerWrite_bounded h _ _
    | exact bscWrite_bounded h _ _
    | exact bscehrWrite_bounded h _ _
    | exact dtcerWrite_bounded h _ _ _
    | exact flashRegWrite_bounded h _ _
    | exact audRegWrite_bounded h _ _
    | exact ⟨dtcvbr_write _, h.trace⟩
    | exact Bounded.keep h rfl rfl

omit h in
theorem writeParts_bounded (l : List RegPart) (n : Nat) (v : Word) {s : State} (h : Bounded s) :
    (writeParts l n v s).Lands Bounded := by
  induction l generalizing n s with
  | nil => exact h
  | cons p rest ih =>
    unfold writeParts
    exact (regWrite_bounded h _ _ _).bind (fun _ k => k) fun _ _ k => ih _ k

theorem periphWrite_bounded (z : Size) (a : Nat) (v : Word) : (periphWrite s z a v).Lands Bounded := by
  unfold periphWrite
  split
  · split
    · exact Bounded.keep h rfl rfl
    · exact h
    · exact h
  · split
    · trivial
    · exact writeParts_bounded _ _ _ h

theorem ramCellWrite_bounded (z : Size) (a : Nat) (v : Word) : (ramCellWrite s z a v).Lands Bounded := by
  have he := ramEnabled_bounded h
  unfold ramCellWrite
  split
  · trivial
  · show Bounded _
    split <;> exact he.keep rfl rfl

theorem ramWrite_bounded (z : Size) (a : Nat) (v : Word) : (ramWrite s z a v).Lands Bounded := by
  unfold ramWrite
  split
  · dsimp only
    split
    · trivial
    · exact ramCellWrite_bounded h.drawBit z a v
  · exact ramCellWrite_bounded h z a v

theorem romWrite_bounded (z : Size) (a : Nat) (v : Word) : (romWrite s z a v).Lands Bounded := by
  unfold romWrite
  split
  · trivial
  · split
    · trivial
    · dsimp only
      split
      · exact ramCellWrite_bounded (showsRam_bounded h a) z _ v
      · trivial

theorem externalWrite_bounded (k : Bool) (z : Size) (a : Nat) (v : Word) : (externalWrite k s z a v).Lands Bounded := by
  unfold externalWrite
  split
  · trivial
  · split
    · exact Bounded.keep h rfl rfl
    · trivial

theorem busWrite_bounded (z : Size) (a v : Word) : (busWrite s z a v).Lands Bounded := by
  unfold busWrite
  split
  · exact h
  · split
    · exact h
    · trivial
    · exact periphWrite_bounded h z _ v
    · exact romWrite_bounded h z _ v
    · exact ramWrite_bounded h z _ v
    · exact externalWrite_bounded h _ z _ v
    · exact externalWrite_bounded h _ z _ v

theorem openStale_bounded (b : State) (z : Size) (a : Word) : Bounded (openStale b z a s) := by
  unfold openStale
  split <;> exact h.keep rfl rfl

theorem cpuWrite_bounded (z : Size) (a v : Word) : (cpuWrite s z a v).Lands Bounded := by
  have hb := busWrite_bounded h z a v
  unfold cpuWrite
  split
  · next t e => rw [e] at hb; exact observeCpu_bounded (openStale_bounded hb _ _ _) _ _ _ _
  · next t e => rw [e] at hb; exact observeCpu_bounded hb _ _ _ _
  · trivial

theorem dtcWrite_bounded (z : Size) (a v : Word) : (dtcWrite s z a v).Lands Bounded :=
  (busWrite_bounded h z a v).bind (fun _ k => k) fun _ _ k => ubcObserve_bounded (openStale_bounded k _ _ _) _

/-! ## Open contents -/

theorem clearRaces_bounded : Bounded (clearRaces s) := by
  unfold clearRaces
  split <;> exact h.keep rfl rfl

theorem regForce_bounded (id : RegId) (v : Word) : Bounded (regForce id v s) := by
  unfold regForce
  dsimp only
  split
  all_goals first
    | exact intcWrite_bounded h _ _ _
    | exact ubcPut_bounded h _ _
    | exact (ubcPut_bounded h _ _).keep rfl rfl
    | exact forceSource_bounded h _
    | exact forceDestination_bounded h _
    | exact cmtWrite_bounded (clearRaces_bounded h) _ _ _
    | exact powerPut_bounded h _ _
    | exact bscPut_bounded h _ _
    | exact dtcerPut_bounded h _ _ _
    | exact flashPut_bounded h _ _
    | exact audPut_bounded h _ _
    | exact ⟨dtcvbr_write _, h.trace⟩
    | exact h.keep rfl rfl

theorem regHeld_bounded (id : RegId) : Bounded (regHeld id s).2 := by
  unfold regHeld
  split
  · exact brsrWord_bounded h
  · exact brdrWord_bounded h
  · exact h.keep rfl rfl

theorem spoilByte_bounded (a : Nat) : Bounded (spoilByte a s) := by
  have hd := h.drawWord
  unfold spoilByte
  split
  case h_4 =>
    dsimp only
    split
    · exact (showsRam_bounded hd a).keep rfl rfl
    · split <;> exact (showsRam_bounded hd a).keep rfl rfl
  case h_5 =>
    split
    · exact regForce_bounded (regHeld_bounded hd _) _ _
    · exact h
  all_goals exact h.keep rfl rfl

omit h in
theorem spoilBytes_bounded (n a : Nat) {s : State} (h : Bounded s) : Bounded (spoilBytes n a s) := by
  induction n generalizing a s with
  | zero => exact h
  | succ n ih => exact ih _ (spoilByte_bounded h a)

theorem spoilContainer_bounded (z : Size) (a : Word) : Bounded (spoilContainer z a s) := by
  unfold spoilContainer
  split
  · exact spoilBytes_bounded _ _ h
  · exact h

/-! ## The DTC and the debugger -/

theorem refreshQueue_bounded : Bounded (refreshQueue s) := by
  unfold refreshQueue
  split <;> exact h.keep rfl rfl

theorem endOfActivation_bounded (v : Nat) (c b : Bool) : Bounded (endOfActivation v c b s) := by
  unfold endOfActivation
  split
  · unfold clearDtce
    split
    · exact h.keep (setEnableReg_dtcvbr _ _ _) rfl
    · exact h
  · unfold clearSource
    split_ifs
    · exact h.keep rfl rfl
    · exact h.keep rfl rfl
    · exact h.keep rfl rfl
    · split
      · split <;> exact h.keep rfl rfl
      · exact h

theorem beginTransfer_bounded (o : Hold) (a : DtcActivity) : Answers (beginTransfer o a s) Bounded := by
  unfold beginTransfer
  split
  · exact Answers.error
  · exact Answers.ok (h.keep rfl rfl)

theorem finishBlock_bounded (a : DtcActivity) : Answers (finishBlock a s) Bounded := by
  unfold finishBlock
  split
  · exact Answers.ok (h.keep rfl rfl)
  · split
    · split
      · exact Answers.error
      · exact Answers.ok (h.keep rfl rfl)
    · exact Answers.ok ((endOfActivation_bounded h _ _ _).keep rfl rfl)

omit h in
theorem dtcAfter_bounded {α : Type} {x : Access α} {k : α → State → Except Fault State} (hx : x.Lands Bounded)
    (hk : ∀ v t, Bounded t → Answers (k v t) Bounded) : Answers (dtcAfter x k) Bounded := by
  unfold dtcAfter
  cases x with
  | ok v t => exact hk v t hx
  | addressError t => exact Answers.ok (Bounded.keep hx rfl rfl)
  | stop f => exact Answers.error

theorem dtcAccess_bounded (y : Bool) (a : DtcActivity) : Answers (dtcAccess y a s) Bounded := by
  have set {t : State} (k : Bounded t) (b : DtcActivity) : Answers (.ok (t.setActivity b)) Bounded := Answers.ok (k.keep rfl rfl)
  unfold dtcAccess
  dsimp only
  split
  · exact dtcAfter_bounded (dtcRead_bounded h _ _) fun v t k => set k _
  · exact set h _
  · split
    · exact Answers.error
    · refine dtcAfter_bounded (dtcRead_bounded h _ _) fun v t k => ?_
      split
      · exact set k _
      · exact beginTransfer_bounded k _ _
  · split
    · exact Answers.error
    · exact dtcAfter_bounded (dtcRead_bounded h _ _) fun v t k => set k _
  · refine dtcAfter_bounded (dtcWrite_bounded h _ _ _) fun v t k => ?_
    split <;> exact set k _
  · exact dtcAfter_bounded (dtcWrite_bounded h _ _ _) fun v t k => set k _
  · exact dtcAfter_bounded (dtcWrite_bounded h _ _ _) fun v t k => set k _
  · exact dtcAfter_bounded (dtcWrite_bounded h _ _ _) fun v t k => finishBlock_bounded k a

theorem stopAtRelease_bounded : Bounded (stopAtRelease s) := by
  unfold stopAtRelease
  split
  · split <;> exact h.keep rfl rfl
  · exact h

theorem dtcNmi_bounded : Bounded (dtcNmi s) := by
  unfold dtcNmi
  split
  · exact h
  · exact stopAtRelease_bounded (h.keep rfl rfl)

theorem startActivation_bounded (v : Nat) : Answers (startActivation v s) Bounded := by
  unfold startActivation
  dsimp only
  split
  · exact beginTransfer_bounded h _ _
  · exact Answers.ok (h.keep rfl rfl)

theorem dtcAdvance_bounded (y : Bool) : Answers (dtcAdvance y s) Bounded := by
  unfold dtcAdvance
  split
  · exact Answers.ok h
  · split
    · next a _ =>
      cases e : dtcAccess y a s with
      | error f => exact Answers.error
      | ok t =>
        have ht := refreshQueue_bounded (stopAtRelease_bounded (dtcAccess_bounded h y a t e))
        dsimp only
        split
        · split
          · exact startActivation_bounded ht _
          · exact Answers.ok ht
        · exact Answers.ok ht
    · split
      · exact Answers.ok h
      · split
        · exact startActivation_bounded h _
        · exact Answers.ok h

theorem dtcEvent_bounded (y : Bool) : Answers (dtcEvent y s) Bounded := by
  unfold dtcEvent
  split
  · exact dtcAdvance_bounded h y
  · exact Answers.ok h

omit h in
theorem audAfter_bounded {α : Type} {x : Access α} (hx : x.Lands Bounded) : Answers (audAfter x) Bounded := by
  unfold audAfter
  cases x with
  | ok v t => exact Answers.ok hx
  | addressError t => exact Answers.ok hx
  | stop f => exact Answers.error

theorem audRead_bounded (z : Size) (a : Word) : Answers (audRead z a s) Bounded := by
  unfold audRead
  split
  · exact audAfter_bounded (busRead_bounded h _ _ z a)
  · exact Answers.ok h

theorem audWrite_bounded (z : Size) (a v : Word) : Answers (audWrite z a v s) Bounded := by
  unfold audWrite
  split
  · exact audAfter_bounded
      ((busWrite_bounded h z a v).bind (fun _ k => k) fun _ _ k => openStale_bounded k _ _ _)
  · exact Answers.ok h

theorem masterAccess_bounded (k : Bool) (a : BitVec 20) (v : Option Byte) : Bounded (masterAccess k a v s) := by
  unfold masterAccess
  split
  · exact h
  · split <;> exact h.keep rfl rfl

theorem lineEvent_bounded (l : Line) (on : Bool) : Bounded (lineEvent l on s) := by
  unfold lineEvent
  dsimp only
  split_ifs <;> exact h.keep rfl rfl

theorem clockStopEvent_bounded : Bounded (clockStopEvent s) := by
  unfold clockStopEvent
  split <;> exact h.keep rfl rfl

theorem cmtPtick_bounded (m : Bool) : Bounded (cmtPtick m s) := by
  unfold cmtPtick
  dsimp only
  split <;> exact (clearRaces_bounded h).keep rfl rfl

end

end Sys2Proof.Machine
end

section
/-! PROOF. The invariant of the whole machine (statements O44 and O45): the agents beside the CPU with the resets they can
bring, the points between the accesses of the CPU, the instructions, the step of the CPU, and the scheduler, in this order. -/

namespace Sys2Proof.Machine

/-- The invariant, part by part. -/
structure Sound (s : State) : Prop extends Bounded s where
  wf : Memory.wf s.mem = true
  bootWf : Memory.wf s.bootMat = true
  srOk : s.srOk = true

theorem inv_iff (s : State) : s.inv = true ↔ Sound s := by
  simp only [State.inv, Bool.and_eq_true, decide_eq_true_eq]
  exact ⟨fun ⟨⟨⟨⟨w, b⟩, o⟩, d⟩, q⟩ => ⟨⟨d, q⟩, w, b, o⟩, fun h => ⟨⟨⟨⟨h.wf, h.bootWf⟩, h.srOk⟩, h.dtcvbr⟩, h.trace⟩⟩

/-- Settles O44: every memory and the trace queue are empty at reset, and SR and DTCVBR have their initial values. -/
theorem resetInvariant : Obligations.ResetInvariant := by
  unfold Obligations.ResetInvariant
  exact (inv_iff _).2 ⟨⟨rfl, Nat.zero_le 2⟩, State.reset_mem_wf, rfl, rfl⟩

theorem Sound.core {s t : State} (h : Sound s) (k : Core s t) (b : Bounded t) : Sound t :=
  ⟨b, k.wf h.wf, k.bootWf h.bootWf, by unfold State.srOk; rw [k.sr]; exact h.srOk⟩

/-- An update of what the invariant does not speak of. -/
theorem Sound.keep {s t : State} (h : Sound s) (mem : t.mem = s.mem) (bootMat : t.bootMat = s.bootMat) (sr : t.sr = s.sr)
    (dtcvbr : t.dtc.dtcvbr = s.dtc.dtcvbr) (trace : t.ubc.trace = s.ubc.trace) : Sound t :=
  ⟨h.toBounded.keep dtcvbr trace, mem ▸ h.wf, bootMat ▸ h.bootWf, by unfold State.srOk; rw [sr]; exact h.srOk⟩

/-- An update of SR that leaves the reserved bits 0. -/
theorem Sound.setSr {s : State} (h : Sound s) {v : Word} (hv : v &&& 0xFFFFFC0C = 0) : Sound { s with sr := v } :=
  ⟨h.toBounded.keep rfl rfl, h.wf, h.bootWf, decide_eq_true hv⟩

theorem Sound.sr {s : State} (h : Sound s) : s.sr &&& 0xFFFFFC0C = 0 := of_decide_eq_true h.srOk

section
variable {s : State}

/-! ## Resets and power cuts -/

theorem drawRegs_eq (n k : Nat) (s : State) : ∃ r d, drawRegs n k s = { s with regs := r, draws := d } := by
  induction n generalizing k s with
  | zero => exact ⟨s.regs, s.draws, rfl⟩
  | succ n ih =>
    obtain ⟨r, d, e⟩ := ih (k + 1) (s.drawWord.2.setReg (BitVec.ofNat 4 k) s.drawWord.1)
    exact ⟨r, d, e⟩

theorem forgetCpu_sound (h : Sound s) : Sound (forgetCpu s) := by
  obtain ⟨n, hn⟩ := forgetCpu_sr s
  obtain ⟨r, d, e⟩ := drawRegs_eq 16 0 s
  refine ⟨?_, ?_, ?_, ?_⟩
  · exact h.toBounded.keep (by simp [forgetCpu, e]) (by simp [forgetCpu, e])
  · simpa [forgetCpu, e] using h.wf
  · simpa [forgetCpu, e] using h.bootWf
  · simp only [State.srOk, hn, srOk_write, decide_true]

theorem resetCpu_sound (h : Sound s) : Sound (resetCpu s) :=
  ((forgetCpu_sound h).setSr (srOk_withMask (forgetCpu_sound h).sr 15)).keep rfl rfl rfl rfl rfl

theorem cutExternalWrite_sound (h : Sound s) : Sound (cutExternalWrite s) := by
  unfold cutExternalWrite
  split
  · exact h
  · exact ⟨h.toBounded.keep rfl rfl, Memory.wf_putList _ _ _ h.wf, h.bootWf, h.srOk⟩

theorem initialiseAll_sound (h : Sound s) : Sound (initialiseAll s) :=
  ⟨⟨BitVec.zero_and, Nat.zero_le 2⟩, h.wf, h.bootWf, h.srOk⟩

theorem forgetAud_sound (h : Sound s) : Sound (forgetAud s) :=
  h.core (forgetAud_same s).core (h.toBounded.keep rfl rfl)

theorem forgetRam_sound (h : Sound s) : Sound (forgetRam s) :=
  ⟨h.toBounded.keep rfl rfl, Memory.wf_filter _ _ h.wf, h.bootWf, h.srOk⟩

theorem powerOnInit_sound (h : Sound s) : Sound (powerOnInit s) :=
  forgetAud_sound (initialiseAll_sound (resetCpu_sound (cutExternalWrite_sound h)))

theorem powerCut_sound (h : Sound s) : Sound (powerCut s) :=
  forgetAud_sound (initialiseAll_sound (forgetCpu_sound (forgetRam_sound h)))

theorem manualInit_sound (h : Sound s) : Sound (manualInit s) := by
  have hf := forgetAud_sound (resetCpu_sound h)
  exact ⟨⟨hf.dtcvbr, Nat.zero_le 2⟩, hf.wf, hf.bootWf, hf.srOk⟩

theorem powerOnReset_sound (h : Sound s) : Sound (powerOnReset s) := (powerOnInit_sound h).keep rfl rfl rfl rfl rfl

theorem clocksBack_sound (h : Sound s) : Sound (clocksBack s) := h.keep rfl rfl rfl rfl rfl

theorem manualReset_sound (h : Sound s) : Sound (manualReset s) := (manualInit_sound h).keep rfl rfl rfl rfl rfl

/-! ## The pins -/

/-- A level on a pin. -/
theorem Sound.pins (h : Sound s) (p : Pins) : Sound { s with pins := p } := h.keep rfl rfl rfl rfl rfl

theorem Sound.proc (h : Sound s) (p : Proc) : Sound { s with proc := p } := h.keep rfl rfl rfl rfl rfl

theorem releaseReset_sound (h : Sound s) : Sound (releaseReset s) := by
  unfold releaseReset
  extract_lets m t
  have ht : Sound t := h.keep rfl rfl rfl rfl rfl
  split
  · exact ht.proc _
  · exact (manualInit_sound ht).proc _

theorem resPin_sound (high : Bool) (h : Sound s) : Sound (resPin high s) := by
  have hl := h.pins { s.pins with res := high }
  unfold resPin
  dsimp only
  split
  · split
    · exact releaseReset_sound hl
    · exact hl
  all_goals
    split
    · exact hl
    · exact powerOnReset_sound hl

theorem mresInStandby_sound (h : Sound s) : Sound (mresInStandby s) := by
  have hd : Sound s.drawBit.2 := h.keep rfl rfl rfl rfl rfl
  rcases mresInStandby_cases s with e | e <;> rw [e]
  · exact hd
  · exact manualReset_sound (clocksBack_sound hd)

theorem mresPin_sound (high : Bool) (h : Sound s) : Sound (mresPin high s) := by
  have hl := h.pins { s.pins with mres := high }
  unfold mresPin
  dsimp only
  split
  case h_1 | h_2 | h_3 =>
    split
    · exact hl
    · exact manualReset_sound hl
  case h_4 | h_5 =>
    split
    · exact hl
    · exact mresInStandby_sound hl
  case h_6 =>
    split
    · exact hl.proc _
    · exact hl
  all_goals exact hl

theorem hstbyPin_sound (high : Bool) (h : Sound s) : Sound (hstbyPin high s) := by
  have hl := h.pins { s.pins with hstby := high }
  unfold hstbyPin
  dsimp only
  split
  · split
    · exact powerOnReset_sound hl
    · exact hl
  all_goals
    split
    · exact hl
    · exact (powerCut_sound (cutExternalWrite_sound hl)).proc _

theorem wakeUp_sound (h : Sound s) : Sound (wakeUp s) := by
  unfold wakeUp
  split
  · exact h.proc _
  all_goals exact h

theorem nmiPin_sound (high : Bool) (h : Sound s) : Sound (nmiPin high s) := by
  have hl := h.pins { s.pins with nmi := high }
  unfold nmiPin
  dsimp only
  split
  · have hi : Sound { s with pins := { s.pins with nmi := high }, intc := { s.intc with nmiPending := true } } :=
      hl.keep rfl rfl rfl rfl rfl
    exact wakeUp_sound (hi.core (dtcNmi_same _).core (dtcNmi_bounded hi.toBounded))
  · exact hl

theorem irqEvent_sound (n : Nat) (high : Bool) (h : Sound s) : Sound (irqEvent n high s) := by
  have hi : Sound (irqPin n high s) := h.keep rfl rfl rfl rfl rfl
  unfold irqEvent
  dsimp only
  split
  · split
    · exact wakeUp_sound hi
    · exact hi
  · exact h.pins _

theorem audInit_sound (h : Sound s) : Sound (audInit s) := h.core (audInit_same s).core (audInit_bounded h.toBounded)

theorem pinEvent_sound (p : Pin) (high : Bool) (h : Sound s) : Sound (pinEvent p high s) := by
  cases p with
  | res => exact resPin_sound high h
  | mres => exact mresPin_sound high h
  | hstby => exact hstbyPin_sound high h
  | nmi => exact nmiPin_sound high h
  | irq n => exact irqEvent_sound n.val high h
  | audrst =>
    simp only [pinEvent]
    split
    · exact h.pins _
    · exact audInit_sound (h.pins _)
  | breq | fwe | md1 | md0 | audmd => exact h.pins _

/-! ## The peripheral clock -/

theorem watchdogReset_sound (h : Sound s) : Sound (watchdogReset s) := by
  unfold watchdogReset
  split
  · exact h
  · split
    · exact (manualInit_sound h).proc _
    · exact (powerOnInit_sound h).keep rfl rfl rfl rfl rfl

theorem runPtick_sound (meets : Bool) (h : Sound s) : Sound (runPtick meets s) := by
  have hc := h.core (cmtPtick_same meets s).core (cmtPtick_bounded h.toBounded meets)
  have hw (w : Wdt) : Sound { cmtPtick meets s with wdt := w } := hc.keep rfl rfl rfl rfl rfl
  unfold runPtick
  dsimp only
  split
  · split
    · split
      · exact watchdogReset_sound (hw _)
      · exact hw _
    · exact hw _
  · exact hc

theorem settlingPtick_sound (h : Sound s) : Sound (settlingPtick s) := by
  have hw (w : Wdt) : Sound { s with wdt := w } := h.keep rfl rfl rfl rfl rfl
  unfold settlingPtick resume
  dsimp only
  split
  · split
    · exact (clocksBack_sound (hw _)).proc _
    · exact manualReset_sound (clocksBack_sound (hw _))
  · exact hw _

theorem ptickEvent_sound (meets : Bool) (h : Sound s) : Sound (ptickEvent meets s) := by
  unfold ptickEvent
  split
  case h_6 => exact settlingPtick_sound h
  case h_1 | h_2 | h_3 | h_4 | h_5 => exact runPtick_sound meets h
  all_goals exact h

/-! ## An event -/

theorem clearRaces_sound (h : Sound s) : Sound (clearRaces s) :=
  h.core (clearRaces_same s).core (clearRaces_bounded h.toBounded)

theorem refreshQueue_sound (h : Sound s) : Sound (refreshQueue s) :=
  h.core (refreshQueue_same s).core (refreshQueue_bounded h.toBounded)

theorem settleBus_sound (h : Sound s) : Sound (settleBus s) := h.keep rfl rfl rfl rfl rfl

theorem boundWindows_sound (h : Sound s) : Sound (boundWindows s) := h.keep rfl rfl rfl rfl rfl

/-- What leaves the CPU and keeps the bounds of the modules keeps the invariant. -/
theorem Sound.answers (h : Sound s) {x : Except Fault State} (c : Answers x (Core s)) (b : Answers x Bounded) :
    Answers x Sound := fun t e => h.core (c t e) (b t e)

theorem agentEvent_sound (e : Event) (h : Sound s) : Answers (agentEvent e s) Sound := by
  have hc := clearRaces_sound h
  refine Answers.map (P := Sound) ?_ fun t k => refreshQueue_sound k
  cases e with
  | cpu => exact Answers.ok h
  | dtc yield =>
    exact (h.answers (dtcEvent_core yield s) (dtcEvent_bounded h.toBounded yield)).map fun t k => clearRaces_sound k
  | ptick meets => exact Answers.ok (ptickEvent_sound meets hc)
  | pin p high => exact Answers.ok (pinEvent_sound p high hc)
  | line l on => exact Answers.ok (hc.core (lineEvent_core l on _) (lineEvent_bounded hc.toBounded l on))
  | clockStop => exact Answers.ok (hc.core (clockStopEvent_core _) (clockStopEvent_bounded hc.toBounded))
  | audRead a z =>
    exact (h.answers (audRead_core z a s) (audRead_bounded h.toBounded z a)).map fun t k => clearRaces_sound k
  | audWrite a z v =>
    exact (h.answers (audWrite_core z a v s) (audWrite_bounded h.toBounded z a v)).map fun t k => clearRaces_sound k
  | external cs1 a v =>
    exact Answers.ok (hc.core (masterAccess_core cs1 a v _) (masterAccess_bounded hc.toBounded cs1 a v))

/-! ## Between two accesses of the CPU -/

theorem takeInner_sound (l : List Event) {s : State} (h : Sound s) : (takeInner l s).Brings Sound Sound := by
  induction l generalizing s with
  | nil => exact h.keep rfl rfl rfl rfl rfl
  | cons e rest ih =>
    have hb := settleBus_sound h
    unfold takeInner
    dsimp only
    split
    · split
      · exact ih hb
      · exact hb.keep rfl rfl rfl rfl rfl
    · cases ha : agentEvent e (settleBus s) with
      | error f => trivial
      | ok u =>
        have hu := agentEvent_sound e hb u ha
        dsimp only
        split
        · exact ih hu
        · exact hu.keep rfl rfl rfl rfl rfl

theorem awaitBus_sound (n : Nat) (a : Word) {s : State} (h : Sound s) : Answers (awaitBus n a s) Sound := by
  induction n generalizing s with
  | zero => exact Answers.ok h
  | succ n ih =>
    unfold awaitBus
    split
    · have hd : Sound s.drawBit.2 := h.keep rfl rfl rfl rfl rfl
      dsimp only
      cases e : dtcAdvance s.drawBit.1 s.drawBit.2 with
      | error f => exact Answers.error
      | ok t =>
        exact ih (clearRaces_sound
          (hd.answers (dtcAdvance_core _ _) (dtcAdvance_bounded hd.toBounded _) t e))
    · exact Answers.ok h

theorem between_sound (a : Word) (h : Sound s) : (between a s).Brings Sound Sound := by
  have hi := takeInner_sound s.inner (clearRaces_sound h)
  unfold between
  split
  · next u e =>
    rw [e] at hi
    have hg : Sound (if s.inner.isEmpty then u else regainBus u) := by
      unfold regainBus
      split
      · exact hi
      · split
        · exact Sound.keep hi rfl rfl rfl rfl rfl
        · exact hi
    cases hw : awaitBus 1024 a (if s.inner.isEmpty then u else regainBus u) with
    | error f => trivial
    | ok w => exact awaitBus_sound _ _ hg w hw
  · next u e =>
    rw [e] at hi
    exact hi
  · trivial

end

/-! ## The instructions -/

/-- What an access leaves of the CPU, with the bounds of the modules, is what the invariant asks. -/
theorem Sound.lands {s : State} (h : Sound s) {α : Type} {x : Access α} (c : x.Lands (Core s)) (b : x.Lands Bounded) :
    x.Lands Sound := by
  cases x with
  | ok v t => exact h.core c b
  | addressError t => exact h.core c b
  | stop f => trivial

/-- Every shared operation keeps the invariant. -/
theorem sound_carries : Carries Sound Sound where
  point a h := between_sound a h
  read z a h := h.lands ((cpuRead_same _ z a).mono fun _ k => k.core) (cpuRead_bounded h.toBounded z a)
  write z a v h := h.lands ((cpuWrite_lands _ z a v).mono fun _ k => k.core) (cpuWrite_bounded h.toBounded z a v)
  spoil z a h := h.core (spoilContainer_core z a _) (spoilContainer_bounded h.toBounded z a)
  draw h := h.keep rfl rfl rfl rfl rfl
  cancel _ h := h.keep rfl rfl rfl rfl rfl
  trace {t} src dst h := by
    have hb := pcTrace_bounded h.toBounded src dst
    obtain ⟨q, e⟩ := pcTrace_eq src dst t
    rw [e] at hb ⊢
    exact ⟨hb.keep rfl rfl, h.wf, h.bootWf, h.srOk⟩
  reg _ _ h := h.keep rfl rfl rfl rfl rfl
  pc _ h := h.keep rfl rfl rfl rfl rfl
  block _ h := h.keep rfl rfl rfl rfl rfl
  close h := h.keep rfl rfl rfl rfl rfl
  undo _ h := h.keep rfl rfl rfl rfl rfl
  delay _ h := h.keep rfl rfl rfl rfl rfl
  ends h := h
  cancelEnd _ h := h.keep rfl rfl rfl rfl rfl

/-- No write of an instruction to SR or to a special register breaks the invariant. -/
theorem sound_grants (i : Instr) : Grants i Sound where
  t _ b _ h := h.setSr (srOk_withBit h.sr 0 b (by decide))
  q _ b _ h := h.setSr (srOk_withBit h.sr 8 b (by decide))
  m _ b _ h := h.setSr (srOk_withBit h.sr 9 b (by decide))
  sr _ v _ h := h.setSr (srOk_write v)
  gbr _ _ _ h := h.keep rfl rfl rfl rfl rfl
  vbr _ _ _ h := h.keep rfl rfl rfl rfl rfl
  mach _ _ _ h := h.keep rfl rfl rfl rfl rfl
  macl _ _ _ h := h.keep rfl rfl rfl rfl rfl
  pr _ _ _ h := h.keep rfl rfl rfl rfl rfl

theorem lowPower_sound {s : State} (h : Sound s) : Ends Sound (lowPower s) := by
  have ha := carry_advance sound_carries h
  unfold lowPower
  split_ifs
  · trivial
  · exact ha.keep rfl rfl rfl rfl rfl
  · trivial
  · exact ha.keep rfl rfl rfl rfl rfl
  · trivial
  · exact (powerCut_sound (cutExternalWrite_sound h)).proc _
  · trivial

theorem exec_sound (i : Instr) {s : State} (h : Sound s) : Ends Sound (exec i s) := by
  by_cases hi : i = .sleep
  · subst hi
    exact lowPower_sound h
  · exact carry_exec sound_carries i (sound_grants i) hi h

/-! ## The step of the CPU -/

section
variable {s t : State}

/-- The mask that an interrupt sets keeps SR's reserved bits 0. -/
theorem enter_sound (vec : Nat) (saved : Word) (l : Option Nat) (h : Sound s) : Ends Sound (enter vec saved l s) := by
  refine carry_enter sound_carries vec saved (fun u hu => ?_) h
  cases l with
  | none => exact hu
  | some l => exact hu.setSr (srOk_withMask hu.sr l)

/-- What the UBC alone does, where the queue stays within its bound. -/
theorem Sound.only (h : Sound s) (k : OnlyUbc s t) (b : Bounded t) : Sound t := h.core k.same.core b

theorem ubcBoundary_bounded (h : Bounded s) : Bounded (ubcBoundary s) := by
  unfold ubcBoundary
  dsimp only
  split_ifs <;> exact h.keep rfl rfl

theorem ubcFetchHits_sound (a : Word) (h : Sound s) : Sound (ubcFetchHits a s).2 := by
  refine h.only (ubcFetchHits_only a s) ?_
  unfold ubcFetchHits
  split
  · exact h.toBounded
  · exact ubcEffective_bounded h.toBounded

theorem ubcFetchMet_bounded (hits : FetchHits) (a b : Bool) (h : Bounded s) : Bounded (ubcFetchMet hits a b s).2 := by
  unfold ubcFetchMet
  split
  · exact ubcMet_bounded h _ _ _ _ _ _
  · exact h

theorem ubcPre_sound (hits : FetchHits) (h : Sound s) : Sound (ubcPre hits s).2 :=
  h.only (ubcPre_only hits s) (ubcFetchMet_bounded hits _ _ h.toBounded)

theorem latchPre_sound (hits : FetchHits) (h : Sound s) : Sound (latchPre hits s) := by
  have hp := ubcPre_sound hits h
  unfold latchPre
  dsimp only
  split
  · exact hp.keep rfl rfl rfl rfl rfl
  · exact hp

theorem ubcPost_sound (hits : FetchHits) (h : Sound s) : Sound (ubcPost hits s) := by
  have hm := h.only (ubcFetchMet_only hits _ _ s) (ubcFetchMet_bounded hits hits.postA hits.postB h.toBounded)
  unfold ubcPost
  dsimp only
  split
  · exact hm.keep rfl rfl rfl rfl rfl
  · exact hm

theorem ubcMark_sound (h : Sound s) : Sound (ubcMark s) := h.keep rfl rfl rfl rfl rfl

theorem acceptance_sound {vec : Nat} {l : Option Nat} (e : acceptance s = some (vec, l, t)) (h : Sound s) : Sound t := by
  have hk (v : Nat) : Bounded (acknowledge v s) := by
    unfold acknowledge
    split_ifs <;> exact h.toBounded.keep rfl rfl
  refine h.core (acceptance_same e).core ?_
  unfold acceptance at e
  split at e
  · cases e
    exact hk 12
  · split at e
    · cases e
      exact h.toBounded.keep rfl rfl
    · split at e
      · cases e
      · split at e
        · cases e
        · cases e
          exact hk _

theorem fetchDecode_sound {latch : State → State} {k : Instr → State → Result} (h : Sound s)
    (hl : ∀ u, Sound u → Sound (latch u)) (hk : ∀ i u, Sound u → Ends Sound (k i u)) :
    Ends Sound (fetchDecode latch s k) := by
  have hf := h.lands ((fetchHalf_same s s.pc).mono fun _ k => k.core) (fetchHalf_bounded h.toBounded s.pc)
  unfold fetchDecode
  split
  · next u e =>
    rw [e] at hf
    exact carry_fetchAddressError sound_carries (hl u hf)
  · trivial
  · next w u e =>
    rw [e] at hf
    split
    · exact hk _ u hf
    · exact carry_raiseException sound_carries _ (hl u hf)
    · trivial
    · trivial

theorem runDecoded_sound (hits : FetchHits) (i : Instr) (h : Sound s) : Ends Sound (runDecoded hits i s) :=
  (exec_sound i (ubcPost_sound hits h)).mapNext fun _ hu => hu.keep rfl rfl rfl rfl rfl

theorem boundaryDecoded_sound (hits : FetchHits) (i : Instr) (h : Sound s) : Ends Sound (boundaryDecoded hits i s) := by
  have hx : Sound (if takesSlot i s then ubcFetchHits (s.pc + 2) s else (noHits s, s)).2 := by
    split
    · exact ubcFetchHits_sound _ h
    · exact h
  unfold boundaryDecoded
  generalize (if takesSlot i s then ubcFetchHits (s.pc + 2) s else (noHits s, s)) = x at hx
  dsimp only
  have hb := latchPre_sound hits hx
  split
  · exact enter_sound _ _ _ (ubcPre_sound _ hb)
  · split
    · next e => exact enter_sound _ _ _ (acceptance_sound e hx)
    · exact runDecoded_sound _ _ (ubcMark_sound (latchPre_sound _ hb))

theorem runBoundary_sound (h : Sound s) : Ends Sound (runBoundary s) := by
  have hm : Sound (ubcMark (if s.irqBlock then s else ubcBoundary s)) := by
    refine ubcMark_sound ?_
    split
    · exact h
    · exact h.only (ubcBoundary_only s) (ubcBoundary_bounded h.toBounded)
  unfold runBoundary
  generalize ubcMark (if s.irqBlock then s else ubcBoundary s) = u at hm
  dsimp only
  have hf := ubcFetchHits_sound u.pc hm
  split
  · exact enter_sound _ _ _ (ubcPre_sound _ hf)
  · exact fetchDecode_sound hf (fun w hw => ubcMark_sound (latchPre_sound _ hw))
      fun i w hw => boundaryDecoded_sound _ i hw

theorem runSlot_sound (d : DelaySlot) (h : Sound s) : Ends Sound (runSlot d s) := by
  refine fetchDecode_sound h (fun _ hu => hu) fun i u hu => runDecoded_sound _ i ?_
  have hf := ubcFetchHits_sound u.pc hu
  split
  · exact latchPre_sound _ hf
  · exact hf

theorem runInstruction_sound (h : Sound s) : Ends Sound (runInstruction s) := by
  unfold runInstruction
  split
  · exact runBoundary_sound h
  · exact runSlot_sound _ h

theorem resetRead_sound (a : Nat) {k : Word → State → Result} (h : Sound s) (hk : ∀ v u, Sound u → Ends Sound (k v u)) :
    Ends Sound (resetRead a s k) := by
  refine carry_beforeAccess sound_carries _ h fun u hu => ?_
  have hr := sound_carries.read .long (BitVec.ofNat 32 a) hu
  split
  · trivial
  · trivial
  · next v w e =>
    rw [e] at hr
    exact hk v w hr

theorem resetSequence_sound (kind : ResetKind) (h : Sound s) : Ends Sound (resetSequence kind s) :=
  resetRead_sound _ h fun _ _ h1 => resetRead_sound _ h1 fun _ _ h2 =>
    (h2.setSr (srOk_write _)).keep rfl rfl rfl rfl rfl

theorem settle_sound (h : Sound s) : Sound (settle s) :=
  settleBus_sound (refreshQueue_sound (boundWindows_sound (clearRaces_sound h)))

theorem cpuStep_sound (h : Sound s) : Ends Sound (cpuStep s) := by
  have hc := clearRaces_sound h
  have settles {r : Result} (hr : Ends Sound r) : Ends Sound (mapNext settle r) := hr.mapNext fun _ k => settle_sound k
  unfold cpuStep
  dsimp only
  split
  · exact .ite hc (settles (runInstruction_sound hc))
  · exact .ite hc (settles (resetSequence_sound _ hc))
  all_goals exact hc

/-! ## The step of the machine -/

/-- A step that answers a state is the scheduler's. -/
theorem schedule_of_step (h : step s = .next t) : schedule s = .next t := by
  unfold step at h
  split at h
  · cases h
  · cases h
  all_goals exact h

theorem otherStep_sound (e : Event) (h : Sound s) : Ends Sound (otherStep e s) := by
  have ha := agentEvent_sound e h
  unfold otherStep
  split
  · next t et => exact settleBus_sound (boundWindows_sound (ha t et))
  · trivial

theorem applyEvent_other {e : Event} (he : e ≠ .cpu) (s : State) : applyEvent e s = otherStep e s := by
  cases e with
  | cpu => exact absurd rfl he
  | _ => rfl

theorem applyEvent_sound (e : Event) (h : Sound s) : Ends Sound (applyEvent e s) := by
  by_cases he : e = .cpu
  · subst he
    exact cpuStep_sound h
  · rw [applyEvent_other he]
    exact otherStep_sound e h

theorem schedule_sound (h : Sound s) : Ends Sound (schedule s) := by
  unfold schedule
  split
  · next e rest _ => exact applyEvent_sound e (s := { s with agenda := rest }) (h.keep rfl rfl rfl rfl rfl)
  · split
    · exact cpuStep_sound (s := { s with turn := .dtc }) (h.keep rfl rfl rfl rfl rfl)
    · exact otherStep_sound _ (s := { s.drawBit.2 with turn := .ptick }) (h.keep rfl rfl rfl rfl rfl)
    · exact otherStep_sound _ (s := { s with turn := .cpu }) (h.keep rfl rfl rfl rfl rfl)

end

/-- Settles O45: each agent keeps the bounds of its own part of the state, and no reset breaks what another left. -/
theorem stepKeepsInvariant : Obligations.StepKeepsInvariant := by
  unfold Obligations.StepKeepsInvariant
  intro s t hs h
  exact (inv_iff t).2 ((schedule_sound ((inv_iff s).1 hs)).next (schedule_of_step h))

end Sys2Proof.Machine
end

section
/-! PROOF. Where the CPU does nothing (statement O43), and the registers after reset (statement O37). -/

namespace Sys2Proof.Machine

/-! ## The idle CPU -/

/-- Outside program execution and the reset sequence the CPU's step does nothing. -/
theorem cpuStep_halted {s : State} (h : s.alone = true) (hr : s.proc ≠ .run) (he : ∀ k, s.proc ≠ .resetEntry k) :
    cpuStep s = .next s := by
  unfold cpuStep
  rw [clearRaces_alone h]
  dsimp only
  split
  · next hp => exact absurd hp hr
  · next k hp => exact absurd hp (he k)
  all_goals rfl

/-- Without the bus the CPU's step does nothing. -/
theorem cpuStep_released {s : State} (h : s.alone = true) (hb : s.bsc.released = true) : cpuStep s = .next s := by
  unfold cpuStep
  rw [clearRaces_alone h]
  dsimp only
  split <;> simp [hb]

/-- Settles O43: with no other agent's event at hand, the step is the CPU's, and that has nothing to do. -/
theorem cpuStopped : Obligations.CpuStopped := by
  unfold Obligations.CpuStopped
  intro s h hc
  have ha := State.atCpuStep_alone (s.cpuTurn_iff h).2.2.2
  refine step_idle h ?_
  have halted (hr : s.proc ≠ .run) (he : ∀ k, s.proc ≠ .resetEntry k) : cpuStep s.atCpuStep = .next s.atCpuStep :=
    cpuStep_halted ha hr he
  obtain e | ⟨b, e⟩ | e | e | ⟨k, e⟩ | ⟨hb, -⟩ := hc
  case inr.inr.inr.inr.inr => exact cpuStep_released ha hb
  all_goals exact halted (by simp [e]) (by simp [e])

/-! ## The registers after reset -/

/-- The register reads its initial value after reset. -/
def RegDesc.readsInitial (r : RegDesc) : Prop :=
  (regRead r.id (lowBytes r.bytes) State.reset).1 &&& BitVec.ofNat 32 r.known =
    BitVec.ofNat 32 (r.initial .mode3 &&& r.known)

/-- The address of a trace entry is open, and the register map gives the bits beside it only. -/
theorem open_address_masked (v : Word) : v &&& 0x0FFFFFFF &&& BitVec.ofNat 32 0xF0000000 = BitVec.ofNat 32 0 := by
  rw [BitVec.and_assoc]
  exact BitVec.and_zero

/-- With an empty queue BRSR and BRDR read an open address with their flags 0. -/
theorem trace_readsInitial {r : RegDesc} (h : r.id = .brsr ∨ r.id = .brdr) (known : r.known = 0xF0000000)
    (initial : r.initial .mode3 = 0) : r.readsInitial := by
  unfold RegDesc.readsInitial
  rw [known, initial]
  rcases h with e | e <;> rw [e] <;> exact open_address_masked (Config.freeWord State.reset.draws)

/-- What the register map says of the two registers of the trace queue. -/
theorem trace_rows : ∀ r ∈ regsCore ++ regsFlash, r.id = .brsr ∨ r.id = .brdr →
    r.known = 0xF0000000 ∧ r.initial .mode3 = 0 := by decide

/-- All other registers read what State.reset holds, row by row. -/
theorem other_rows_readInitial : ∀ r ∈ regsCore ++ regsFlash, (r.id = .brsr ∨ r.id = .brdr) ∨ r.readsInitial := by
  unfold RegDesc.readsInitial
  decide

theorem rows_readInitial : ∀ r ∈ regsCore ++ regsFlash, r.readsInitial := by
  intro r hr
  obtain ht | ho := other_rows_readInitial r hr
  · obtain ⟨known, initial⟩ := trace_rows r hr ht
    exact trace_readsInitial ht known initial
  · exact ho

/-- Settles O37: the registers of the map row by row, and the values the statement writes out from the reset state. -/
theorem resetValues : Obligations.ResetValues := by
  unfold Obligations.ResetValues
  exact ⟨by decide, by decide, rfl, rfl, rfl, rows_readInitial, by decide⟩

end Sys2Proof.Machine
end

section
/-! PROOF. The reset pins (statement O59): what every step of another agent leaves alone around its event, what the resets
initialise and keep, and the pins one by one, on the agenda and between two accesses of the CPU. -/

namespace Sys2Proof.Machine

/-! ## Frames -/

/-- The timers, the clocks, the power-down registers, the settings of the bus and of the DTC, and memory are unchanged. -/
structure KeepsDevices (s t : State) : Prop where
  wdt : t.wdt = s.wdt
  cmt : t.cmt = s.cmt
  cpg : t.cpg = s.cpg
  power : t.power = s.power
  cmncr : t.bsc.cmncr = s.bsc.cmncr
  dtcera : t.dtc.dtcera = s.dtc.dtcera
  dtcvbr : t.dtc.dtcvbr = s.dtc.dtcvbr
  mem : t.mem = s.mem
  part : t.part = s.part
  ramEpoch : t.ramEpoch = s.ramEpoch

theorem KeepsDevices.trans {s t u : State} (a : KeepsDevices s t) (b : KeepsDevices t u) : KeepsDevices s u :=
  ⟨b.wdt.trans a.wdt, b.cmt.trans a.cmt, b.cpg.trans a.cpg, b.power.trans a.power, b.cmncr.trans a.cmncr,
    b.dtcera.trans a.dtcera, b.dtcvbr.trans a.dtcvbr, b.mem.trans a.mem, b.part.trans a.part,
    b.ramEpoch.trans a.ramEpoch⟩

theorem KeepsDevices.byteAt {s t : State} (h : KeepsDevices s t) (a : Nat) : t.byteAt a = s.byteAt a := by
  simp only [State.byteAt, h.mem, h.part, h.ramEpoch]

/-- The CPU, memory, the INTC and the modules of `KeepsDevices` are unchanged. -/
structure Spares (s t : State) : Prop where
  same : Same s t
  devices : KeepsDevices s t
  intc : t.intc = s.intc

theorem Spares.trans {s t u : State} (a : Spares s t) (b : Spares t u) : Spares s u :=
  ⟨a.same.trans b.same, a.devices.trans b.devices, b.intc.trans a.intc⟩

theorem Same.mask {s t : State} (h : Same s t) : t.mask = s.mask := by
  unfold State.mask
  rw [h.sr]

theorem drawWord_spares (s : State) : Spares s s.drawWord.2 := ⟨drawWord_same s, by constructor <;> rfl, rfl⟩

theorem aud_spares (s : State) (x : Aud) : Spares s { s with aud := x } := ⟨same_aud s x, by constructor <;> rfl, rfl⟩

theorem forgetAud_spares (s : State) : Spares s (forgetAud s) :=
  (drawWord_spares s).trans ((drawWord_spares _).trans ((drawWord_spares _).trans ((drawWord_spares _).trans
    (aud_spares _ _))))

theorem refreshQueue_spares (s : State) : Spares s (refreshQueue s) := by
  refine ⟨refreshQueue_same s, ?_, ?_⟩ <;> unfold refreshQueue
  · split <;> constructor <;> rfl
  · split <;> rfl

theorem boundWindows_spares (s : State) : Spares s (boundWindows s) :=
  ⟨same_windows s _, by constructor <;> rfl, rfl⟩

theorem settleBus_spares (s : State) : Spares s (settleBus s) := ⟨same_bsc s _, by constructor <;> rfl, rfl⟩

/-! ## The events of the agenda -/

/-- An event of the agenda that answers a state; what follows it leaves the CPU, memory and the modules alone. -/
theorem step_answers {s u : State} {e : Event} {rest : List Event} (hm : modeRuns s.mode = true)
    (ha : s.agenda = e :: rest) (he : e ≠ .cpu) (hu : agentAct e { s with agenda := rest } = .ok u) :
    ∃ t, step s = .next t ∧ Spares u t := by
  refine ⟨_, ?_, (refreshQueue_spares _).trans ((boundWindows_spares _).trans (settleBus_spares _))⟩
  rw [step_event hm ha, applyEvent_other he]
  unfold otherStep agentEvent
  rw [hu]
  rfl

/-- The state that an event of the agenda meets: no count clock coincides with it. -/
def State.atEvent (s : State) (rest : List Event) : State := { s with agenda := rest, cmt := (clearRaces s).cmt }

theorem clearRaces_agenda (s : State) (rest : List Event) : clearRaces { s with agenda := rest } = s.atEvent rest := by
  unfold State.atEvent clearRaces
  dsimp only
  split <;> rfl

/-- What follows a pin's event on the agenda leaves the CPU and the modules alone. -/
theorem step_pin {s : State} {p : Pin} {high : Bool} {rest : List Event} (hm : modeRuns s.mode = true)
    (ha : s.agenda = .pin p high :: rest) :
    ∃ t, step s = .next t ∧ Spares (pinEvent p high (s.atEvent rest)) t := by
  rw [← clearRaces_agenda]
  exact step_answers hm ha (by simp) rfl

/-- The first event between two accesses of the CPU, where a pin's event, ends the instruction when it ends program
execution. -/
theorem between_pin {s : State} {p : Pin} {high : Bool} {rest : List Event} (a : Word) (hr : s.proc = .run)
    (hi : s.inner = .pin p high :: rest)
    (hp : (pinEvent p high (clearRaces (settleBus (clearRaces s)))).proc ≠ .run) :
    ∃ t, between a s = .abandoned t ∧ t.proc = (pinEvent p high (clearRaces (settleBus (clearRaces s)))).proc := by
  have hq := (refreshQueue_same (pinEvent p high (clearRaces (settleBus (clearRaces s))))).proc
  have hs : (settleBus (clearRaces s)).proc = .run := (clearRaces_same s).proc.trans hr
  refine ⟨{ refreshQueue (pinEvent p high (clearRaces (settleBus (clearRaces s)))) with inner := rest }, ?_, hq⟩
  have ht : takeInner s.inner (clearRaces s) =
      .abandoned { refreshQueue (pinEvent p high (clearRaces (settleBus (clearRaces s)))) with inner := rest } := by
    rw [hi]
    unfold takeInner
    dsimp only
    rw [if_neg (by simp)]
    exact if_neg fun e => hp (hq.symm.trans (e.trans hs))
  unfold between
  rw [ht]

/-! ## What the resets initialise and keep -/

theorem resetCpu_devices (s : State) : KeepsDevices s (resetCpu s) := by
  obtain ⟨r, d, e⟩ := drawRegs_eq 16 0 s
  unfold resetCpu forgetCpu
  rw [e]
  constructor <;> rfl

theorem initialiseAll_spared (s : State) : Spares (initialiseAll (resetCpu (cutExternalWrite s))) (powerOnInit s) :=
  forgetAud_spares _

theorem powerOnInit_byteAt (s : State) (a : Nat) : (powerOnInit s).byteAt a = (cutExternalWrite s).byteAt a :=
  ((initialiseAll_spared s).same.byteAt a).trans ((resetCpu_devices (cutExternalWrite s)).byteAt a)

theorem cutExternalWrite_none {s : State} (h : s.bsc.extWrite = none) : cutExternalWrite s = s := by
  unfold cutExternalWrite
  rw [h]

/-- Of an external write that is cut, at most its own bytes are lost. -/
theorem cutExternalWrite_byteAt {s : State} {w : ExtWrite} (h : s.bsc.extWrite = some w) {a : Nat}
    (ha : a < w.cell ∨ w.cell + w.size.bytes ≤ a) : (cutExternalWrite s).byteAt a = s.byteAt a := by
  unfold cutExternalWrite
  rw [h]
  dsimp only
  unfold State.byteAt
  have hn (v : Word) : v.toNat % (w.size.bytes + 1) ≤ w.size.bytes := by
    exact Nat.le_of_lt_succ (Nat.mod_lt _ (Nat.succ_pos _))
  have hd := hn s.drawWord.1
  rw [Memory.find_putList_out _ _ _ _ (by rw [List.length_drop, beBytes_length]; omega)]
  rfl

theorem manualInit_devices (s : State) : KeepsDevices s (manualInit s) := by
  obtain ⟨wdt, cmt, cpg, power, cmncr, dtcera, dtcvbr, mem, part, ramEpoch⟩ :=
    (resetCpu_devices s).trans (forgetAud_spares (resetCpu s)).devices
  exact ⟨wdt, cmt, cpg, power, cmncr, dtcera, dtcvbr, mem, part, ramEpoch⟩

theorem clocksBack_byteAt (s : State) (a : Nat) : (clocksBack s).byteAt a = s.byteAt a := rfl

theorem manualReset_reset (s : State) : (manualReset s).mask = 15 ∧ (manualReset s).vbr = 0 := by
  obtain ⟨mask, vbr, -⟩ := manualInit_reset s
  unfold manualReset
  generalize manualInit s = t at mask vbr ⊢
  exact ⟨mask, vbr⟩

theorem powerOnReset_reset (s : State) : (powerOnReset s).mask = 15 ∧ (powerOnReset s).vbr = 0 := by
  obtain ⟨mask, vbr, -⟩ := powerOnInit_reset s
  unfold powerOnReset
  generalize powerOnInit s = t at mask vbr ⊢
  exact ⟨mask, vbr⟩

/-! ## The pins -/

/-- Other levels on the pins. -/
def State.withPins (s : State) (p : Pins) : State := { s with pins := p }

theorem resPin_falls {s : State} (hp : s.proc ≠ .resetHeld .powerOn) (hh : s.pins.hstby = true) :
    ∃ p, resPin false s = powerOnReset (s.withPins p) := by
  refine ⟨{ s.pins with res := false }, ?_⟩
  unfold resPin State.withPins
  dsimp only
  split
  · next h => exact absurd h hp
  all_goals exact if_neg (by simp [hh])

theorem mresPin_falls {s : State} (hr : s.pins.res = true)
    (hp : s.proc = .run ∨ s.proc = .sleep ∨ ∃ k, s.proc = .resetEntry k) :
    ∃ p, mresPin false s = manualReset (s.withPins p) := by
  refine ⟨{ s.pins with mres := false }, ?_⟩
  obtain h | h | ⟨k, h⟩ := hp <;> simp [mresPin, State.withPins, h, hr]

theorem mresPin_falls_standby {s : State} (hr : s.pins.res = true) (hp : s.proc = .deep ∨ ∃ b, s.proc = .standby b) :
    ∃ p, mresPin false s = mresInStandby (s.withPins p) := by
  refine ⟨{ s.pins with mres := false }, ?_⟩
  obtain h | ⟨b, h⟩ := hp <;> simp [mresPin, State.withPins, h, hr]

/-! ## The statement -/

section
variable {s : State} {rest : List Event}

theorem res_falls (hm : modeRuns s.mode = true) (ha : s.agenda = .pin .res false :: rest) (hh : s.pins.hstby = true)
    (hp : s.proc ≠ .resetHeld .powerOn) :
    ∃ t, step s = .next t ∧ t.proc = .resetHeld .powerOn ∧ t.intc = Intc.reset ∧
      t.wdt = Wdt.reset ∧ t.cmt = Cmt.reset ∧ t.cpg = Cpg.reset ∧ t.power = Power.reset ∧ t.bsc.cmncr = 0x1010 ∧
      t.mask = 15 ∧ (s.bsc.extWrite = none → s.keepsMemory t) ∧
      (∀ w, s.bsc.extWrite = some w → s.keepsMemoryOutside t w.size w.cell) := by
  obtain ⟨t, e, k⟩ := step_pin hm ha
  obtain ⟨p, hu⟩ := resPin_falls (s := s.atEvent rest) hp hh
  rw [pinEvent, hu] at k
  have hi := initialiseAll_spared ((s.atEvent rest).withPins p)
  have hk := k.devices
  have hmask := (powerOnReset_reset ((s.atEvent rest).withPins p)).1
  have hmem (a : Nat) : t.byteAt a = (cutExternalWrite ((s.atEvent rest).withPins p)).byteAt a :=
    (k.same.byteAt a).trans (powerOnInit_byteAt ((s.atEvent rest).withPins p) a)
  refine ⟨t, e, k.same.proc, k.intc.trans hi.intc, hk.wdt.trans hi.devices.wdt, hk.cmt.trans hi.devices.cmt,
    hk.cpg.trans hi.devices.cpg, hk.power.trans hi.devices.power, hk.cmncr.trans hi.devices.cmncr,
    k.same.mask.trans hmask, fun hw a => ?_, fun w hw a hout => ?_⟩
  · rw [hmem, cutExternalWrite_none (s := (s.atEvent rest).withPins p) hw]
    rfl
  · exact (hmem a).trans (cutExternalWrite_byteAt (s := (s.atEvent rest).withPins p) hw hout)

theorem mres_falls (hm : modeRuns s.mode = true) (ha : s.agenda = .pin .mres false :: rest) (hr : s.pins.res = true)
    (hp : s.proc = .run ∨ s.proc = .sleep ∨ ∃ k, s.proc = .resetEntry k) :
    ∃ t, step s = .next t ∧ t.proc = .resetHeld .manual ∧ t.intc = Intc.reset ∧ t.wdt = s.wdt ∧
      t.cmt = (clearRaces s).cmt ∧ t.cpg = s.cpg ∧ t.power = s.power ∧ t.bsc.cmncr = s.bsc.cmncr ∧
      t.dtc.dtcera = s.dtc.dtcera ∧ t.dtc.dtcvbr = s.dtc.dtcvbr ∧ t.mask = 15 ∧ s.keepsMemory t := by
  obtain ⟨t, e, k⟩ := step_pin hm ha
  obtain ⟨p, hu⟩ := mresPin_falls (s := s.atEvent rest) hr hp
  rw [pinEvent, hu] at k
  have hi := manualInit_devices ((s.atEvent rest).withPins p)
  have hk := k.devices
  have hmask := (manualReset_reset ((s.atEvent rest).withPins p)).1
  exact ⟨t, e, k.same.proc, k.intc, hk.wdt.trans hi.wdt, hk.cmt.trans hi.cmt, hk.cpg.trans hi.cpg,
    hk.power.trans hi.power, hk.cmncr.trans hi.cmncr, hk.dtcera.trans hi.dtcera, hk.dtcvbr.trans hi.dtcvbr,
    k.same.mask.trans hmask, fun a => (k.same.byteAt a).trans (hi.byteAt a)⟩

theorem mres_falls_standby (hm : modeRuns s.mode = true) (ha : s.agenda = .pin .mres false :: rest)
    (hr : s.pins.res = true) (hp : s.proc = .deep ∨ ∃ b, s.proc = .standby b) :
    ∃ t, step s = .next t ∧ t.power = s.power ∧ s.keepsMemory t ∧
      (t.proc = s.proc ∧ t.sr = s.sr ∧ t.vbr = s.vbr ∧ t.regs = s.regs ∨
        t.proc = .resetHeld .manual ∧ t.intc = Intc.reset ∧ t.mask = 15 ∧ t.vbr = 0) := by
  obtain ⟨t, e, k⟩ := step_pin hm ha
  obtain ⟨p, hu⟩ := mresPin_falls_standby (s := s.atEvent rest) hr hp
  rw [pinEvent, hu] at k
  refine ⟨t, e, ?_⟩
  obtain c | c := mresInStandby_cases ((s.atEvent rest).withPins p) <;> rw [c] at k
  · exact ⟨k.devices.power, k.same.byteAt, .inl ⟨k.same.proc, k.same.sr, k.same.vbr, k.same.regs⟩⟩
  · have hpower : (clocksBack ((s.atEvent rest).withPins p).drawBit.2).power = s.power := rfl
    have hmem (a : Nat) : (clocksBack ((s.atEvent rest).withPins p).drawBit.2).byteAt a = s.byteAt a :=
      (clocksBack_byteAt _ a).trans (State.drawBit_byteAt _ a)
    generalize clocksBack ((s.atEvent rest).withPins p).drawBit.2 = u at k hpower hmem
    obtain ⟨mask, vbr⟩ := manualReset_reset u
    have hi := manualInit_devices u
    exact ⟨(k.devices.power.trans hi.power).trans hpower, fun a => ((k.same.byteAt a).trans (hi.byteAt a)).trans (hmem a),
      .inr ⟨k.same.proc, k.intc, k.same.mask.trans mask, k.same.vbr.trans vbr⟩⟩

theorem hstby_falls (hm : modeRuns s.mode = true) (ha : s.agenda = .pin .hstby false :: rest) (hp : s.proc ≠ .hardware) :
    ∃ t, step s = .next t ∧ t.proc = .hardware ∧ ∃ n, t.sr = Config.freeWord n &&& 0x3F3 := by
  obtain ⟨t, e, k⟩ := step_pin hm ha
  rw [pinEvent, hstbyPin_falls (s := s.atEvent rest) hp] at k
  obtain ⟨n, hn⟩ := powerCut_sr (cutExternalWrite ((s.atEvent rest).withPins { s.pins with hstby := false }))
  exact ⟨t, e, k.same.proc, n, k.same.sr.trans hn⟩

theorem hstby_rises (hm : modeRuns s.mode = true) (ha : s.agenda = .pin .hstby true :: rest) (hp : s.proc = .hardware)
    (hr : s.pins.res = false) :
    ∃ t, step s = .next t ∧ t.proc = .resetHeld .powerOn ∧ t.mask = 15 ∧ t.vbr = 0 := by
  obtain ⟨t, e, k⟩ := step_pin hm ha
  rw [pinEvent, hstbyPin_rises (s := s.atEvent rest) hp hr] at k
  obtain ⟨mask, vbr⟩ := powerOnReset_reset ((s.atEvent rest).withPins { s.pins with hstby := true })
  exact ⟨t, e, k.same.proc, k.same.mask.trans mask, k.same.vbr.trans vbr⟩

/-- A reset pin that falls before an access of the CPU ends the instruction there. -/
theorem reset_between (hr : s.proc = .run) (a : Word) :
    (s.inner = .pin .res false :: rest → s.pins.hstby = true →
      ∃ t, between a s = .abandoned t ∧ t.proc = .resetHeld .powerOn) ∧
    (s.inner = .pin .mres false :: rest → s.pins.res = true →
      ∃ t, between a s = .abandoned t ∧ t.proc = .resetHeld .manual) := by
  have hc := (clearRaces_same s).trans ((settleBus_spares _).same.trans (clearRaces_same (settleBus (clearRaces s))))
  have hp := hc.proc.trans hr
  constructor
  · intro hi hh
    obtain ⟨p, e⟩ := resPin_falls (by rw [hp]; decide) ((congrArg Pins.hstby hc.pins).trans hh)
    have hu := congrArg State.proc e
    obtain ⟨t, e, ht⟩ := between_pin a hr hi (fun h => by cases hu.symm.trans h)
    exact ⟨t, e, ht.trans hu⟩
  · intro hi hh
    obtain ⟨p, e⟩ := mresPin_falls ((congrArg Pins.res hc.pins).trans hh) (.inl hp)
    have hu := congrArg State.proc e
    obtain ⟨t, e, ht⟩ := between_pin a hr hi (fun h => by cases hu.symm.trans h)
    exact ⟨t, e, ht.trans hu⟩

end

/-- Settles O59: each clause is the pin's event with the frame of the reset that it begins. -/
theorem resetPins : Obligations.ResetPins := by
  unfold Obligations.ResetPins
  exact fun s rest => ⟨res_falls, mres_falls, mres_falls_standby, reset_between, hstby_falls, hstby_rises⟩

end Sys2Proof.Machine
end

section
/-! PROOF. The other agents and the CPU (statement O49): what no agent changes, the accesses of the debugger and of the external
master, and the bus given away between two accesses of the CPU. -/

namespace Sys2Proof.Machine

/-! ## The step of another agent -/

/-- The step of another agent that leaves the CPU in program execution leaves its registers too. -/
theorem otherStep_core {e : Event} {s t : State} (h : otherStep e s = .next t) (hs : s.proc = .run) (ht : t.proc = .run) :
    Core s t := by
  unfold otherStep at h
  split at h
  · next u hu =>
    cases h
    exact (agentEvent_core hu hs ht).trans (((boundWindows_spares u).trans (settleBus_spares _)).same.core)
  · cases h

theorem Core.keepsSpecial {s t : State} (h : Core s t) : s.keepsSpecial t [] := fun x _ =>
  match x with
  | .gbr => h.gbr
  | .vbr => h.vbr
  | .mach => h.mach
  | .macl => h.macl
  | .pr => h.pr

/-- The registers of the CPU that a step of another agent leaves as they were. -/
theorem step_other_core {s t : State} (hs : s.proc = .run) (ht : t.proc = .run)
    (ho : (∃ e rest, s.agenda = e :: rest ∧ e ≠ .cpu) ∨ (s.agenda = [] ∧ s.turn ≠ .cpu)) (h : step s = .next t) :
    t.regs = s.regs ∧ t.sr = s.sr ∧ s.keepsSpecial t [] ∧ t.pc = s.pc ∧ t.slot = s.slot ∧ t.irqBlock = s.irqBlock := by
  have h := schedule_of_step h
  unfold schedule at h
  obtain ⟨e, rest, ha, he⟩ | ⟨ha, hturn⟩ := ho <;> rw [ha] at h
  · have k := otherStep_core ((applyEvent_other he _).symm.trans h) hs ht
    exact ⟨k.regs, k.sr, k.keepsSpecial, k.pc, k.slot, k.irqBlock⟩
  · split at h
    · next e _ _ he => cases he
    · split at h
      · next hc => exact absurd hc hturn
      · have k := otherStep_core h hs ht
        exact ⟨k.regs, k.sr, k.keepsSpecial, k.pc, k.slot, k.irqBlock⟩
      · have k := otherStep_core h hs ht
        exact ⟨k.regs, k.sr, k.keepsSpecial, k.pc, k.slot, k.irqBlock⟩

/-- The event is no pin's, no clock's and not the CPU's. -/
def Event.quiet : Event → Prop
  | .dtc _ | .line _ _ | .clockStop | .audRead _ _ | .audWrite _ _ _ | .external _ _ _ => True
  | .cpu | .ptick _ | .pin _ _ => False

/-- In every processing state, the DTC, a request line, the stop of the clock, the debugger and the external master leave the
CPU's own state. -/
theorem agentEvent_quiet {e : Event} (he : e.quiet) (s : State) : Answers (agentEvent e s) (Core s) := by
  have hc := (clearRaces_same s).core
  have clears {x : Except Fault State} (h : Answers x (Core s)) : Answers (x.map clearRaces) (Core s) :=
    h.map fun t k => k.trans (clearRaces_same t).core
  refine Answers.map (P := Core s) ?_ fun t k => k.trans (refreshQueue_same t).core
  cases e with
  | cpu | ptick | pin => exact he.elim
  | dtc yield => exact clears (dtcEvent_core yield s)
  | line l on => exact Answers.ok (hc.trans (lineEvent_core l on _))
  | clockStop => exact Answers.ok (hc.trans (clockStopEvent_core _))
  | audRead a z => exact clears (audRead_core z a s)
  | audWrite a z v => exact clears (audWrite_core z a v s)
  | external cs1 a v => exact Answers.ok (hc.trans (masterAccess_core cs1 a v _))

theorem step_quiet_proc {s t : State} {e : Event} {rest : List Event} (ha : s.agenda = e :: rest) (he : e.quiet)
    (h : step s = .next t) : t.proc = s.proc := by
  have h := schedule_of_step h
  have hcpu : e ≠ .cpu := by
    rintro rfl
    exact he
  unfold schedule at h
  rw [ha] at h
  have h := (applyEvent_other hcpu _).symm.trans h
  unfold otherStep at h
  split at h
  · next u hu =>
    cases h
    exact (agentEvent_quiet he _ u hu).proc
  · cases h

/-! ## The debugger -/

section
variable {s : State} {z : Size} {a : Word}

theorem busWrite_plain (v : Word) (h : s.plainRam z a = true) : busWrite s z a v = .ok () (s.store z a.toNat v) := by
  simp only [State.plainRam, Bool.and_eq_true, decide_eq_true_eq] at h
  obtain ⟨hplain, hram⟩ := h
  obtain ⟨aligned, ramcr, -, ramer, -, ⟨-, clock, enabled⟩ | ⟨hrom, -⟩⟩ := State.plain_iff hplain
  · simp [busWrite, aligned, hram, ramWrite, ramCellWrite, ramEnabled, clock, ramcr, enabled, ramer]
  · exact absurd hrom (by simp [hram])

theorem audWrite_plain (v : Word) (hd : s.audMayAccess = true) (h : s.plainRam z a = true) :
    audWrite z a v s = .ok (openStale s z a (s.store z a.toNat v)) := by
  unfold audWrite
  rw [if_pos hd, busWrite_plain v h]
  rfl

theorem audRead_plain (hd : s.audMayAccess = true) (h : s.plain z a = true) : audRead z a s = .ok s := by
  unfold audRead
  rw [if_pos hd, busRead_plain .aud false h]
  rfl

/-- A misaligned access of the debugger changes nothing. -/
theorem audWrite_misaligned (v : Word) (h : misaligned z a = true) : audWrite z a v s = .ok s := by
  unfold audWrite busWrite
  rw [if_pos h]
  exact ite_self _

theorem audRead_misaligned (h : misaligned z a = true) : audRead z a s = .ok s := by
  unfold audRead busRead
  rw [if_pos h]
  exact ite_self _

end

section
variable {s : State} {z : Size} {a v : Word} {rest : List Event}

theorem step_audWrite_plain (hm : modeRuns s.mode = true) (hd : s.audMayAccess = true)
    (ha : s.agenda = .audWrite a z v :: rest) (h : s.plainRam z a = true) :
    ∃ t, step s = .next t ∧ t.stored z a.toNat = lowPart z v ∧ s.keepsMemoryOutside t z a.toNat ∧ t.regs = s.regs ∧
      t.pc = s.pc := by
  have hact : agentAct (.audWrite a z v) { s with agenda := rest } =
      .ok (clearRaces (openStale { s with agenda := rest } z a (({ s with agenda := rest } : State).store z a.toNat v))) :=
    congrArg (Except.map clearRaces) (audWrite_plain (s := { s with agenda := rest }) v hd h)
  obtain ⟨t, e, k⟩ := step_answers hm ha (by simp) hact
  have hk := ((openStale_same _ _ _ _).trans (clearRaces_same _)).trans k.same
  refine ⟨t, e, ?_, fun b hb => (hk.byteAt b).trans (State.store_byteAt_out _ z a.toNat v b hb), hk.regs, hk.pc⟩
  rw [← stored_store { s with agenda := rest } z a.toNat v]
  exact stored_congr fun b _ _ => hk.byteAt b

theorem step_unchanged {e : Event} (hm : modeRuns s.mode = true) (ha : s.agenda = e :: rest) (he : e ≠ .cpu)
    (h : agentAct e { s with agenda := rest } = .ok (clearRaces { s with agenda := rest })) :
    ∃ t, step s = .next t ∧ s.keepsMemory t ∧ t.regs = s.regs ∧ t.pc = s.pc ∧ t.proc = s.proc := by
  obtain ⟨t, e, k⟩ := step_answers hm ha he h
  have hk := (clearRaces_same { s with agenda := rest }).trans k.same
  exact ⟨t, e, hk.byteAt, hk.regs, hk.pc, hk.proc⟩

theorem step_audRead_plain (hm : modeRuns s.mode = true) (hd : s.audMayAccess = true)
    (ha : s.agenda = .audRead a z :: rest) (h : s.plain z a = true) :
    ∃ t, step s = .next t ∧ s.keepsMemory t ∧ t.regs = s.regs ∧ t.pc = s.pc := by
  obtain ⟨t, e, hmem, hregs, hpc, -⟩ := step_unchanged hm ha (by simp)
    (congrArg (Except.map clearRaces) (audRead_plain (s := { s with agenda := rest }) hd h))
  exact ⟨t, e, hmem, hregs, hpc⟩

theorem step_aud_misaligned (hm : modeRuns s.mode = true)
    (ha : s.agenda = .audWrite a z v :: rest ∨ s.agenda = .audRead a z :: rest) (h : misaligned z a = true) :
    ∃ t, step s = .next t ∧ s.keepsMemory t ∧ t.regs = s.regs ∧ t.pc = s.pc ∧ t.proc = s.proc := by
  obtain ha | ha := ha
  · exact step_unchanged hm ha (by simp) (congrArg (Except.map clearRaces) (audWrite_misaligned v h))
  · exact step_unchanged hm ha (by simp) (congrArg (Except.map clearRaces) (audRead_misaligned h))

end

/-! ## The external master -/

section
variable {s : State}

/-- With the bus, the external master's byte is in the cell. -/
theorem masterAccess_written (cs1 : Bool) (a : BitVec 20) (b : Byte) (h : s.bsc.released = true) :
    (masterAccess cs1 a (some b) s).byteAt (extCell cs1 a.toNat) = b := by
  unfold masterAccess
  dsimp only
  rw [if_pos h]
  refine (State.store_byteAt_in s .byte (extCell cs1 a.toNat) (b.setWidth 32) 0 (by simp [Size.bytes])).trans ?_
  have hlow : (b.setWidth 32).extractLsb' 0 8 = b := by
    ext i hi
    simp [hi, Nat.lt_of_lt_of_le hi (by decide : 8 ≤ 32)]
  exact hlow

/-- Without the bus, with no value, or elsewhere nothing is written. -/
theorem masterAccess_byteAt (cs1 : Bool) (a : BitVec 20) (v : Option Byte) {x : Nat}
    (h : v = none ∨ s.bsc.released = false ∨ x ≠ extCell cs1 a.toNat) :
    (masterAccess cs1 a v s).byteAt x = s.byteAt x := by
  unfold masterAccess
  split
  · rfl
  · dsimp only
    split
    · next hb =>
      have hx : x ≠ extCell cs1 a.toNat := by simpa [hb] using h
      exact State.store_byteAt_out s .byte _ _ x (by simp only [Size.bytes]; omega)
    · rfl

theorem clearRaces_released (s : State) : (clearRaces s).bsc.released = s.bsc.released := by
  unfold clearRaces
  split <;> rfl

theorem step_external {rest : List Event} (hm : modeRuns s.mode = true) (cs1 : Bool) (a : BitVec 20) (v : Option Byte)
    (ha : s.agenda = .external cs1 a v :: rest) :
    ∃ t, step s = .next t ∧ t.regs = s.regs ∧ t.pc = s.pc ∧ t.proc = s.proc ∧
      (∀ b, v = some b → s.bsc.released = true → t.byteAt (extCell cs1 a.toNat) = b) ∧
      ∀ x, v = none ∨ s.bsc.released = false ∨ x ≠ extCell cs1 a.toNat → t.byteAt x = s.byteAt x := by
  obtain ⟨t, e, k⟩ := step_answers hm ha (by simp) rfl
  have hr := clearRaces_released { s with agenda := rest }
  have hc := clearRaces_same { s with agenda := rest }
  have hk := (hc.core.trans (masterAccess_core cs1 a v _)).trans k.same.core
  refine ⟨t, e, hk.regs, hk.pc, hk.proc, fun b hv hb => ?_, fun x hx => ?_⟩
  · subst hv
    exact (k.same.byteAt _).trans (masterAccess_written cs1 a b (hr.trans hb))
  · exact (k.same.byteAt x).trans ((masterAccess_byteAt cs1 a v (by rwa [hr])).trans (hc.byteAt x))

/-! ## The bus given away between two accesses of the CPU -/

theorem clearRaces_dtcHold (s : State) : (clearRaces s).dtcHold = s.dtcHold := by
  unfold clearRaces
  split <;> rfl

theorem refreshQueue_dtcHold (s : State) : (refreshQueue s).dtcHold = s.dtcHold := by
  unfold refreshQueue
  split <;> rfl

theorem masterAccess_dtcHold (cs1 : Bool) (a : BitVec 20) (v : Option Byte) (s : State) :
    (masterAccess cs1 a v s).dtcHold = s.dtcHold := by
  unfold masterAccess
  split
  · rfl
  · dsimp only
    split <;> rfl

/-- An event that leaves the processing state is taken, and the events after it follow. -/
theorem takeInner_event {e : Event} {t : State} (rest : List Event) (he : e ≠ .cpu) (h : agentEvent e (settleBus s) = .ok t)
    (hp : t.proc = s.proc) : takeInner (e :: rest) s = takeInner rest t := by
  rw [takeInner]
  rw [if_neg he, h]
  exact if_pos hp

/-- A level on BREQ. -/
theorem takeInner_breq (high : Bool) (rest : List Event) (hs : s.proc = .run) :
    ∃ t, takeInner (.pin .breq high :: rest) s = takeInner rest t ∧ Core s t ∧ t.dtcHold = s.dtcHold ∧
      t.pins.breq = high ∧ ∀ x, t.byteAt x = s.byteAt x := by
  have hc := clearRaces_same (settleBus s)
  have hq := refreshQueue_same (pinEvent .breq high (clearRaces (settleBus s)))
  have hr : (refreshQueue (pinEvent .breq high (clearRaces (settleBus s)))).proc = .run :=
    hq.proc.trans (hc.proc.trans hs)
  refine ⟨refreshQueue (pinEvent .breq high (clearRaces (settleBus s))),
    takeInner_event rest (by simp) rfl (hr.trans hs.symm), (settleBus_core s).trans (agentEvent_core (e := .pin .breq high) rfl hs hr), ?_, ?_,
    fun x => ?_⟩
  · exact (refreshQueue_dtcHold _).trans ((clearRaces_dtcHold (settleBus s)).trans (settleBus_dtcHold s))
  · exact congrArg Pins.breq hq.pins
  · exact (hq.byteAt x).trans (hc.byteAt x)

/-- While BREQ is low and the DTC lets the bus go, the CPU's access does not come. -/
theorem takeInner_cpu_waits (rest : List Event) (hs : s.proc = .run) (hb : s.pins.breq = false) (hh : s.dtcHold = .free) :
    takeInner (.cpu :: rest) s = takeInner rest (settleBus s) := by
  rw [takeInner]
  rw [if_pos rfl, if_pos (by simp [settleBus_released hs, hb, hh])]

/-- With BREQ high the CPU goes on. -/
theorem takeInner_cpu_goes (rest : List Event) (hs : s.proc = .run) (hb : s.pins.breq = true) :
    takeInner (.cpu :: rest) s = .go { settleBus s with inner := rest } := by
  rw [takeInner]
  rw [if_pos rfl, if_neg (by simp [settleBus_released hs, hb])]

/-- The external master writes while BREQ is low. -/
theorem takeInner_external (cs1 : Bool) (a : BitVec 20) (b : Byte) (rest : List Event) (hs : s.proc = .run)
    (hb : s.pins.breq = false) (hh : s.dtcHold = .free) :
    ∃ t, takeInner (.external cs1 a (some b) :: rest) s = takeInner rest t ∧ Core s t ∧ t.dtcHold = .free ∧
      t.byteAt (extCell cs1 a.toNat) = b ∧ ∀ x, x ≠ extCell cs1 a.toNat → t.byteAt x = s.byteAt x := by
  have hc := clearRaces_same (settleBus s)
  have hm := masterAccess_core cs1 a (some b) (clearRaces (settleBus s))
  have hq := refreshQueue_same (masterAccess cs1 a (some b) (clearRaces (settleBus s)))
  have hk := (settleBus_core s).trans (hc.core.trans (hm.trans hq.core))
  have hr : (clearRaces (settleBus s)).bsc.released = true := by
    rw [clearRaces_released, settleBus_released hs, hb, hh]
    rfl
  refine ⟨_, takeInner_event rest (by simp) rfl hk.proc, hk, ?_, ?_, fun x hx => ?_⟩
  · rw [refreshQueue_dtcHold, masterAccess_dtcHold, clearRaces_dtcHold, settleBus_dtcHold, hh]
  · exact (hq.byteAt _).trans (masterAccess_written cs1 a b hr)
  · exact (hq.byteAt x).trans ((masterAccess_byteAt cs1 a _ (.inr (.inr hx))).trans (hc.byteAt x))

/-- Where the DTC keeps no bus from it, the CPU does not wait. -/
theorem awaitBus_free (n : Nat) (a : Word) (h : s.dtcHold = .free) : awaitBus n a s = .ok s := by
  cases n with
  | zero => rfl
  | succ n =>
    rw [awaitBus, if_neg]
    simp [State.dtcBlocks, h]

/-- BREQ low and high again between two accesses, and a write of the external master while it is low. -/
theorem between_lends (next : Word) (cs1 : Bool) (a : BitVec 20) (b : Byte) (hs : s.proc = .run) (hh : s.dtcHold = .free)
    (hi : s.inner = [.pin .breq false, .cpu, .external cs1 a (some b), .pin .breq true, .cpu]) :
    ∃ t, between next s = .go t ∧ t.inner = [] ∧ t.regs = s.regs ∧ t.pc = s.pc ∧ t.bsc.released = false ∧
      t.byteAt (extCell cs1 a.toNat) = b ∧ ∀ x, x ≠ extCell cs1 a.toNat → t.byteAt x = s.byteAt x := by
  have hc := clearRaces_same s
  obtain ⟨t1, e1, k1, d1, b1, m1⟩ := takeInner_breq false [.cpu, .external cs1 a (some b), .pin .breq true, .cpu]
    (hc.proc.trans hs)
  have r1 : t1.proc = .run := k1.proc.trans (hc.proc.trans hs)
  have f1 : t1.dtcHold = .free := d1.trans ((clearRaces_dtcHold s).trans hh)
  obtain ⟨t2, e2, k2, f2, w2, m2⟩ := takeInner_external (s := settleBus t1) cs1 a b [.pin .breq true, .cpu] r1 b1 f1
  obtain ⟨t3, e3, k3, d3, b3, m3⟩ := takeInner_breq true [.cpu] (k2.proc.trans r1)
  have k := ((hc.core.trans k1).trans (settleBus_core t1)).trans (k2.trans k3)
  have r3 : t3.proc = .run := k.proc.trans hs
  have f3 : t3.dtcHold = .free := d3.trans f2
  have hgo : takeInner s.inner (clearRaces s) = .go { settleBus t3 with inner := [] } := by
    rw [hi, e1, takeInner_cpu_waits _ r1 b1 f1, e2, e3, takeInner_cpu_goes _ r3 b3]
  have hreleased : (settleBus t3).bsc.released = false := by simp [settleBus_released r3, b3]
  have hregain : regainBus { settleBus t3 with inner := [] } = { settleBus t3 with inner := [] } := by
    unfold regainBus
    exact if_neg (by simp [hreleased])
  refine ⟨{ settleBus t3 with inner := [] }, ?_, rfl, k.regs, k.pc, hreleased, (m3 _).trans w2, fun x hx => ?_⟩
  · unfold between
    rw [hgo]
    dsimp only
    rw [if_neg (by simp [hi]), hregain, awaitBus_free _ _ (s := { settleBus t3 with inner := [] }) f3]
  · exact (m3 x).trans ((m2 x hx).trans ((m1 x).trans (hc.byteAt x)))

end

/-- Settles O49: the agents by the frame of each event, the accesses by what they store, and the bus lent by its five events. -/
theorem agentsLeaveTheCpu : Obligations.AgentsLeaveTheCpu := by
  unfold Obligations.AgentsLeaveTheCpu
  refine ⟨fun s t => step_other_core, fun s t e rest ha he h => step_quiet_proc ha ?_ h, fun s z a v rest hm hd => ?_,
    fun s cs1 a v rest hm ha => step_external hm cs1 a v ha, fun s next cs1 a b => between_lends next cs1 a b⟩
  · cases e <;> exact he
  · exact ⟨step_audWrite_plain hm hd, step_audRead_plain hm hd, step_aud_misaligned hm⟩

end Sys2Proof.Machine
end

section
/-! PROOF. The address space and single accesses (statements O9, O10, O11, O13): what each address belongs to, the operands that
are plain and the bytes they hold, and the accesses that are address errors. -/

namespace Sys2Proof.Machine

/-! ## The address map, area by area (rules R118 to R124) -/

section
variable {p : Part} {m : Mode} {a : Nat}

theorem ramBase_bounds (p : Part) : 0xFFFF8000 ≤ p.ramBase ∧ p.ramBase < 0xFFFFC000 := by
  unfold Part.ramBase
  cases p.ram <;> decide

theorem romBytes_le (p : Part) : p.romBytes ≤ 0x80000 := by
  unfold Part.romBytes
  cases p.rom <;> decide

theorem region_peripheral_iff : region p m a = .peripheral ↔ 0xFFFFC000 ≤ a := by
  unfold region
  split_ifs <;> simp_all

theorem region_ram (h1 : p.ramBase ≤ a) (h2 : a < 0xFFFFC000) : region p m a = .ram := by
  unfold region
  rw [if_neg (by omega), if_pos h1]

/-- Between external memory and RAM nothing is mapped. -/
theorem region_high_reserved (h1 : 0x08000000 ≤ a) (h2 : a < p.ramBase) : region p m a = .reserved := by
  have := ramBase_bounds p
  unfold region
  rw [if_neg (by omega), if_neg (by omega), if_pos h1]

/-- Below H'08000000 the mode and the ROM decide. -/
theorem region_low (h : a < 0x08000000) :
    region p m a = if m = .mode0 then (if a < 0x04000000 then .cs0 else .cs1)
      else if a < p.romBytes then .rom
      else if a < 0x02000000 then .reserved
      else if m.singleChip then .singleChipExternal
      else if a < 0x04000000 then .cs0 else .cs1 := by
  have := ramBase_bounds p
  unfold region
  rw [if_neg (by omega), if_neg (by omega), if_neg (by omega)]

theorem region_mode0 (h : a < 0x08000000) : region p .mode0 a = if a < 0x04000000 then .cs0 else .cs1 := by
  rw [region_low h, if_pos rfl]

theorem region_rom (hm : m ≠ .mode0) (h : a < p.romBytes) : region p m a = .rom := by
  have := romBytes_le p
  rw [region_low (by omega), if_neg hm, if_pos h]

theorem region_low_reserved (hm : m ≠ .mode0) (h1 : p.romBytes ≤ a) (h2 : a < 0x02000000) : region p m a = .reserved := by
  rw [region_low (by omega), if_neg hm, if_neg (by omega), if_pos h2]

/-- H'02000000 to H'07FFFFFF in a mode with on-chip ROM. -/
theorem region_external (hm : m ≠ .mode0) (h1 : 0x02000000 ≤ a) (h2 : a < 0x08000000) :
    region p m a = if m.singleChip then .singleChipExternal else if a < 0x04000000 then .cs0 else .cs1 := by
  have := romBytes_le p
  rw [region_low h2, if_neg hm, if_neg (by omega), if_neg (by omega)]

theorem region_singleChip (hm : m.singleChip = true) (h1 : 0x02000000 ≤ a) (h2 : a < 0x08000000) :
    region p m a = .singleChipExternal := by
  rw [region_external (by rintro rfl; cases hm) h1 h2, if_pos hm]

end

/-- Settles O13: each area by the lemma that names it. -/
theorem addressMap : Obligations.AddressMap := by
  unfold Obligations.AddressMap
  intro p m a hrom hram _ _
  have rom : p.romBytes = 0x80000 := by rw [Part.romBytes, hrom]
  have ram : p.ramBase = 0xFFFF8000 := by rw [Part.ramBase, hram]
  refine ⟨fun h1 h2 => region_high_reserved h1 (by omega), fun h1 h2 => region_ram (by omega) h2,
    fun h => region_peripheral_iff.2 h, fun hm => ?_, fun hm => ?_, fun hm h1 h2 => ?_, fun hm => ?_⟩
  · subst hm
    exact ⟨fun h => by rw [region_mode0 (by omega), if_pos h], fun h1 h2 => by rw [region_mode0 h2, if_neg (by omega)]⟩
  · exact ⟨fun h => region_rom hm (by omega), fun h1 h2 => region_low_reserved hm (by omega) h2⟩
  · exact region_singleChip (by rcases hm with rfl | rfl <;> rfl) h1 h2
  · have h0 : m ≠ .mode0 := by rcases hm with rfl | rfl | rfl <;> decide
    have hs : ¬ m.singleChip = true := by rcases hm with rfl | rfl | rfl <;> decide
    constructor <;> intro h1 h2
    · rw [region_external h0 h1 (by omega), if_neg hs, if_pos h2]
    · rw [region_external h0 (by omega) h2, if_neg hs, if_neg (by omega)]

/-! ## Plain operands (rules R101, R102, R110) -/

section
variable {s u : State} {z : Size} {a v : Word}

theorem State.plainRam_region (h : s.plainRam z a = true) : s.regionOf a.toNat = .ram := by
  simp only [State.plainRam, Bool.and_eq_true, decide_eq_true_eq] at h
  exact h.2

theorem storeAddress_plainRam (h : s.plainRam z a = true) : s.storeAddress a = a.toNat := by
  simp [State.storeAddress, State.plainRam_region h]

/-- The bytes of a plain operand in RAM after the CPU wrote it. -/
theorem cpuWrite_byteAt (h : s.plainRam z a = true) (hw : cpuWrite s z a v = .ok () u) {i : Nat}
    (hi : i < z.bytes) : u.byteAt (a.toNat + i) = (beBytes z v)[i]'(by rwa [beBytes_length]) := by
  rw [cpuWrite_plain v h] at hw
  cases hw
  rw [((openStale_same _ _ _ _).trans (observeCpu_same _ _ _ _ _)).byteAt, State.store_byteAt_in]

end

/-- Settles O9: a plain read is what is stored, with what the UBC sees of it; a plain write is a store and the same. -/
theorem plainAccess : Obligations.PlainAccess := by
  unfold Obligations.PlainAccess
  intro s z a v
  refine ⟨fun hr ha => ⟨hr, between_alone a ha⟩, fun h => ⟨_, cpuRead_plain h, ?_⟩, fun h => ⟨_, cpuWrite_plain v h, ?_⟩⟩
  · have hu := cpuRead_ok (cpuRead_plain h)
    exact ⟨hu.byteAt, hu.regs⟩
  · have hu := cpuWrite_ok (cpuWrite_plain v h)
    have hout := hu.outside
    rw [storeAddress_plainRam h] at hout
    exact ⟨cpuWrite_stored h (cpuWrite_plain v h), hout, hu.regs⟩

/-- Settles O10: the value of a plain operand is its bytes in order, and a store puts them there in that order. -/
theorem bigEndian : Obligations.BigEndian := by
  unfold Obligations.BigEndian
  intro s a v
  refine ⟨fun h => ⟨_, cpuRead_plain h⟩, fun h => ⟨_, cpuRead_plain h⟩, fun h => ⟨_, cpuRead_plain h⟩, fun h => ?_,
    fun h => ?_, fun h => ?_⟩
  all_goals
    have hw := cpuWrite_plain v h
    have byte := fun i hi => cpuWrite_byteAt h hw (i := i) hi
  · exact ⟨_, hw, byte 0 (by decide), byte 1 (by decide), byte 2 (by decide), byte 3 (by decide)⟩
  · exact ⟨_, hw, byte 0 (by decide), byte 1 (by decide)⟩
  · exact ⟨_, hw, byte 0 (by decide)⟩

/-! ## Accesses that are address errors (rule R104, checks 1 and 2) -/

section
variable {s u : State} {z : Size} {a v : Word}

/-- The access is an address error whatever the modules say: it is misaligned, or external in a single-chip mode. -/
def State.accessError (s : State) (z : Size) (a : Word) : Prop :=
  misaligned z a = true ∨ s.regionOf a.toNat = .singleChipExternal

theorem busRead_accessError (m : Master) (f : Bool) (h : s.accessError z a) : busRead m f s z a = .addressError s := by
  unfold busRead
  split
  · rfl
  · next hm => rw [h.resolve_left hm]

theorem busWrite_accessError (h : s.accessError z a) : busWrite s z a v = .addressError s := by
  unfold busWrite
  split
  · rfl
  · next hm => rw [h.resolve_left hm]

theorem cpuRead_accessError (h : s.accessError z a) : ∃ u, cpuRead s z a = .addressError u ∧ Same s u := by
  have e : cpuRead s z a =
      .addressError (observeCpu false z a (s.drawValue z).1 (s.drawValue z).2) := by
    unfold cpuRead
    rw [busRead_accessError .cpu false h]
  exact ⟨_, e, (drawValue_same s z).trans (observeCpu_same _ _ _ _ _)⟩

theorem cpuWrite_accessError (h : s.accessError z a) : cpuWrite s z a v = .addressError (observeCpu true z a v s) := by
  unfold cpuWrite
  rw [busWrite_accessError h]

end

/-- Settles O11: both premises make the access an address error, and the UBC alone sees it. -/
theorem addressErrors : Obligations.AddressErrors := by
  unfold Obligations.AddressErrors
  intro s z a v h
  have he : s.accessError z a := by
    rcases h with h | ⟨hm, h1, h2⟩
    · exact .inl (decide_eq_true h)
    · exact .inr (region_singleChip hm h1 h2)
  obtain ⟨u, hr, hu⟩ := cpuRead_accessError he
  have hw := observeCpu_same true z a v s
  exact ⟨⟨u, hr, hu.byteAt, hu.regs⟩, _, cpuWrite_accessError he, hw.byteAt, hw.regs⟩

end Sys2Proof.Machine
end

section
/-! PROOF. An access that is an address error ends the instruction in the entry of vector 9 (statement O12): the bytes that a
misaligned store opens, what the state entered from keeps, each shared operation whose access fails, and the instruction forms. -/

namespace Sys2Proof.Machine

/-! ## The bytes behind an address -/

/-- What decides which byte of memory lies behind an address stays the same. -/
structure SameBehind (s t : State) : Prop where
  part : t.part = s.part
  mode : t.mode = s.mode
  windows : t.windows = s.windows
  flash : t.flash = s.flash

section
variable {s t u : State} {a b : Nat}

theorem SameBehind.trans (h : SameBehind s t) (k : SameBehind t u) : SameBehind s u :=
  ⟨k.part.trans h.part, k.mode.trans h.mode, k.windows.trans h.windows, k.flash.trans h.flash⟩

theorem SameBehind.behind (h : SameBehind s t) (a b : Nat) : t.behind a b = s.behind a b := by
  unfold State.behind State.regionOf State.ramerUncertain
  rw [h.part, h.mode, h.windows, h.flash]

theorem OnlyUbc.sameBehind (h : OnlyUbc s t) : SameBehind s t := by
  obtain ⟨u, d, rfl⟩ := h
  constructor <;> rfl

theorem store_sameBehind (s : State) (z : Size) (c : Nat) (v : Word) : SameBehind s (s.store z c v) := by
  constructor <;> rfl

theorem showsRam_only (s : State) (a : Nat) : OnlyUbc s (showsRam s a).2 := by
  unfold showsRam
  split
  · exact drawBit_only s
  · exact OnlyUbc.refl s

/-- The overlaid RAM shows at an address only where RAMER, or its window, says so. -/
theorem showsRam_shown (h : (showsRam s a).1 = true) : (s.ramerUncertain a || overlays s.flash.ramer a) = true := by
  unfold showsRam at h
  split at h
  · next w => simp [w]
  · simp_all

theorem showsRam_hidden (h : ¬ (showsRam s a).1 = true) : (s.ramerUncertain a || !(overlays s.flash.ramer a)) = true := by
  unfold showsRam at h
  split at h
  · next w => simp [w]
  · simp_all

theorem behind_overlay (hr : s.regionOf a = .rom) (h : (s.ramerUncertain a || overlays s.flash.ramer a) = true) :
    s.behind a (overlayAlias a) = true := by
  simp only [State.behind, hr, h, decide_true, Bool.and_self, Bool.true_or]

theorem behind_flash (hr : s.regionOf a = .rom) (h : (s.ramerUncertain a || !(overlays s.flash.ramer a)) = true)
    (hf : s.flash.fmats ≠ 0xAA) : s.behind a a = true := by
  simp only [State.behind, hr, h, decide_eq_true hf, decide_true, Bool.and_self, Bool.or_true]

/-! ## A byte made open (rule R106) -/

/-- The peripheral area is the upper end of the address space, and no memory lies behind it. -/
theorem behind_peripheral (h : 0xFFFFC000 ≤ a) : s.behind a b = false := by
  have hr : s.regionOf a = .peripheral := region_peripheral_iff.2 h
  simp [State.behind, hr]

/-- A register's byte made open leaves memory alone. -/
theorem spoilByte_peripheral (h : 0xFFFFC000 ≤ a) : Same s (spoilByte a s) := by
  have hr : s.regionOf a = .peripheral := region_peripheral_iff.2 h
  unfold spoilByte
  rw [hr]
  dsimp only
  split
  · exact ((drawWord_same s).trans (regHeld_same _ _)).trans (regForce_same _ _ _)
  · exact Same.refl s

theorem spoilByte_sameBehind (h : a < 0xFFFFC000) : SameBehind s (spoilByte a s) := by
  have hr : s.regionOf a ≠ .peripheral := fun e => absurd (region_peripheral_iff.1 e) (by omega)
  have hd := (drawWord_only s).sameBehind
  unfold spoilByte
  dsimp only
  split
  · exact hd.trans (store_sameBehind _ _ _ _)
  · exact hd.trans (store_sameBehind _ _ _ _)
  · exact hd.trans (store_sameBehind _ _ _ _)
  · have hp := hd.trans (showsRam_only s.drawWord.2 a).sameBehind
    split
    · exact hp.trans (store_sameBehind _ _ _ _)
    · split
      · exact hp.trans ⟨rfl, rfl, rfl, rfl⟩
      · exact hp.trans (store_sameBehind _ _ _ _)
  · next e => exact absurd e hr
  · exact ⟨rfl, rfl, rfl, rfl⟩
  · exact ⟨rfl, rfl, rfl, rfl⟩

/-- One byte made open changes nothing that decides what lies behind the addresses above it. -/
theorem behind_spoilByte (k : Nat) : (spoilByte a s).behind (a + k) b = s.behind (a + k) b := by
  by_cases h : 0xFFFFC000 ≤ a
  · rw [behind_peripheral (by omega), behind_peripheral (by omega)]
  · exact (spoilByte_sameBehind (by omega)).behind _ _

/-- A byte store leaves every other byte. -/
theorem storeByte_byteAt (hs : Same s t) {c : Nat} (v : Word) (h : b ≠ c) : (t.store .byte c v).byteAt b = s.byteAt b := by
  rw [State.store_byteAt_out _ _ _ _ _ (by simp only [Size.bytes]; omega), hs.byteAt]

/-- A byte made open is one that lies behind the address. -/
theorem spoilByte_byteAt (h : s.behind a b = false) : (spoilByte a s).byteAt b = s.byteAt b := by
  have hd := drawWord_same s
  cases hr : s.regionOf a with
  | ram =>
    have hb : b ≠ a := by simpa [State.behind, hr] using h
    simpa [spoilByte, hr] using storeByte_byteAt hd _ hb
  | cs0 =>
    have hb : b ≠ extCell false a := by simpa [State.behind, hr] using h
    simpa [spoilByte, hr] using storeByte_byteAt hd _ hb
  | cs1 =>
    have hb : b ≠ extCell true a := by simpa [State.behind, hr] using h
    simpa [spoilByte, hr] using storeByte_byteAt hd _ hb
  | rom =>
    have hp := hd.trans (showsRam_same s.drawWord.2 a)
    have hf : (showsRam s.drawWord.2 a).2.flash = s.flash :=
      ((drawWord_only s).trans (showsRam_only _ a)).sameBehind.flash
    unfold spoilByte
    rw [hr]
    dsimp only
    split
    · next w =>
      refine storeByte_byteAt hp _ ?_
      rintro rfl
      rw [behind_overlay hr (showsRam_shown (s := s.drawWord.2) w)] at h
      cases h
    · next w =>
      split
      · exact hp.byteAt b
      · next hm =>
        rw [hf] at hm
        refine storeByte_byteAt hp _ ?_
        rintro rfl
        rw [behind_flash hr (showsRam_hidden (s := s.drawWord.2) w) hm] at h
        cases h
  | peripheral => exact (spoilByte_peripheral (region_peripheral_iff.1 hr)).byteAt b
  | reserved => simp [spoilByte, hr]
  | singleChipExternal => simp [spoilByte, hr]

theorem spoilBytes_byteAt (n : Nat) (h : ∀ k, k < n → s.behind (a + k) b = false) :
    (spoilBytes n a s).byteAt b = s.byteAt b := by
  induction n generalizing a s with
  | zero => rfl
  | succ n ih =>
    have rest : ∀ k, k < n → (spoilByte a s).behind (a + 1 + k) b = false := fun k hk => by
      rw [Nat.add_assoc, behind_spoilByte]
      exact h _ (by omega)
    exact (ih rest).trans (spoilByte_byteAt (h 0 (by omega)))

end

/-- A misaligned store opens the bytes behind its aligned container and no other. -/
theorem spoilContainer_byteAt {z : Size} {a : Word} {s : State} {b : Nat}
    (h : misaligned z a = true → ∀ k, k < z.bytes → s.behind ((container z a).toNat + k) b = false) :
    (spoilContainer z a s).byteAt b = s.byteAt b := by
  unfold spoilContainer
  split
  · next hm => exact spoilBytes_byteAt _ (h hm)
  · rfl

/-! ## A write that is an address error -/

section
variable {s u : State} {z : Size} {a v : Word}

theorem ramCellWrite_ne_addressError (n : Nat) : ramCellWrite s z n v ≠ .addressError u := by
  unfold ramCellWrite
  split <;> simp

theorem ramWrite_ne_addressError (n : Nat) : ramWrite s z n v ≠ .addressError u := by
  unfold ramWrite
  dsimp only
  split_ifs
  · simp
  · exact ramCellWrite_ne_addressError n
  · exact ramCellWrite_ne_addressError n

theorem romWrite_ne_addressError (n : Nat) : romWrite s z n v ≠ .addressError u := by
  unfold romWrite
  dsimp only
  split_ifs
  · simp
  · simp
  · exact ramCellWrite_ne_addressError _
  · simp

theorem externalWrite_ne_addressError (cs1 : Bool) (n : Nat) : externalWrite cs1 s z n v ≠ .addressError u := by
  unfold externalWrite
  split_ifs <;> simp

/-- A write that ends in an address error has changed neither the CPU nor memory. -/
theorem busWrite_addressError (h : busWrite s z a v = .addressError u) : Same s u := by
  unfold busWrite at h
  split at h
  · cases h
    exact Same.refl s
  · split at h
    · cases h
      exact Same.refl s
    · cases h
    · have hl := periphWrite_same s z a.toNat v
      rw [h] at hl
      exact hl
    · exact absurd h (romWrite_ne_addressError _)
    · exact absurd h (ramWrite_ne_addressError _)
    · exact absurd h (externalWrite_ne_addressError _ _)
    · exact absurd h (externalWrite_ne_addressError _ _)

theorem cpuWrite_addressError (h : cpuWrite s z a v = .addressError u) : Same s u := by
  unfold cpuWrite at h
  split at h
  · cases h
  · next t e =>
    cases h
    exact (busWrite_addressError e).trans (observeCpu_same _ _ _ _ _)
  · cases h

/-- After a misaligned write the same bytes lie behind each address. -/
theorem cpuWrite_misaligned (hm : misaligned z a = true) (h : cpuWrite s z a v = .addressError u) : SameBehind s u := by
  rw [cpuWrite_accessError (.inl hm)] at h
  cases h
  exact (observeCpu_only _ _ _ _ _).sameBehind

theorem cpuRead_addressError (h : cpuRead s z a = .addressError u) : Same s u := by
  have hl := cpuRead_same s z a
  rw [h] at hl
  exact hl

end

/-! ## The state an entry is made from -/

/-- The CPU is as it was but for the listed registers, bits of SR and special registers. -/
structure KeepsBut (s e : State) (regs : List Reg) (bits : List Nat) (specials : List Special) : Prop where
  pc : e.pc = s.pc
  slot : e.slot = s.slot
  regs : s.keepsRegs e regs
  sr : s.keepsSr e bits
  special : s.keepsSpecial e specials

section
variable {i : Instr} {s t e x u : State} {z : Size} {ea v : Word} {regs : List Reg} {bits : List Nat}
  {specials : List Special}

theorem Core.keepsBut (h : Core s t) : KeepsBut s t regs bits specials :=
  ⟨h.pc, h.slot, fun r _ => h.reg r, fun _ _ => by rw [h.sr], fun x _ => h.special x⟩

theorem KeepsBut.after (k : KeepsBut t e regs bits specials) (h : Core s t) : KeepsBut s e regs bits specials :=
  ⟨k.pc.trans h.pc, k.slot.trans h.slot, fun r hr => (k.regs r hr).trans (h.reg r),
    fun b hb => (k.sr b hb).trans (by rw [h.sr]), fun x hx => (k.special x hx).trans (h.special x)⟩

/-- An instruction that raises an address error enters vector 9 with all of the CPU that the state keeps (rules R352, R424,
R442). What is said of memory may speak of its bytes alone. -/
theorem entersAddressError_of {memory : State → Prop} (he : exec i s = addressErrorException e)
    (k : KeepsBut s e regs bits specials) (hm : ∀ t, (∀ b, t.byteAt b = e.byteAt b) → memory t) :
    EntersAddressError i s regs bits specials memory := by
  have slot := k.slot
  refine ⟨fun h => ?_, fun d h hr => ?_, fun d h hr => ?_⟩ <;> rw [h] at slot <;> rw [he]
  · refine ⟨ubcCancel true e, ?_, k.regs, k.sr, fun x hx => ?_, hm _ fun _ => rfl⟩
    · simp [addressErrorException, raiseWith, slot, k.pc]
    · exact Eq.trans (by cases x <;> rfl) (k.special x hx)
  · refine ⟨{ ubcCancel true e with pr := d.prBefore }, ?_, rfl, k.regs, k.sr, fun x hx => ?_, hm _ fun _ => rfl⟩
    · simp [addressErrorException, raiseWith, slot, hr]
    · simp only [List.mem_cons, not_or] at hx
      obtain ⟨hpr, hx⟩ := hx
      refine Eq.trans ?_ (k.special x hx)
      cases x <;> first | rfl | exact absurd rfl hpr
  · simp [addressErrorException, raiseWith, slot, hr]

/-! ## The shared operations whose access fails -/

/-- What a misaligned read does to its destination: all but the listed places stays, and so does memory. -/
def OpensOnly (s : State) (f : Word → State → State) (regs : List Reg) (bits : List Nat) (specials : List Special) : Prop :=
  ∀ v t, t.sr = s.sr → KeepsBut t (f v t) regs bits specials ∧ t.keepsMemory (f v t)

theorem loadOr_addressError (f : Word → State → State) (k : Word → State → Result) (hx : Reaches s ea x)
    (h : cpuRead x z ea = .addressError u) : loadOr z ea f s k = addressErrorException (spoilDestination z ea f u) := by
  simp [loadOr, hx.beforeAccess, h]

/-- A destination that an address error leaves as it was costs a free value at most. -/
theorem spoilDestination_nothing (z : Size) (a : Word) (s : State) : Same s (spoilDestination z a (fun _ t => t) s) := by
  unfold spoilDestination
  split
  · exact drawWord_same s
  · exact Same.refl s

theorem store_addressError (k : State → Result) (hx : Reaches s ea x) (h : cpuWrite x z ea v = .addressError u) :
    store z ea v s k = addressErrorException (spoilContainer z ea u) := by
  simp [store, storeNow, hx.beforeAccess, h]

theorem readError_loadOr {f : Word → State → State} {k : Word → State → Result} (he : exec i s = loadOr z ea f s k)
    (hf : OpensOnly s f regs bits specials) : ReadError i s z ea regs bits specials := by
  intro x u hx hr
  have hs := cpuRead_addressError hr
  have hc := hx.core.trans hs.core
  have hexec := he.trans (loadOr_addressError f k hx hr)
  unfold spoilDestination at hexec
  cases hm : misaligned z ea with
  | false =>
    simp only [hm, Bool.false_eq_true, if_false] at hexec ⊢
    exact entersAddressError_of hexec hc.keepsBut fun t ht b => (ht b).trans (hs.byteAt b)
  | true =>
    simp only [hm, if_true] at hexec ⊢
    have hd := drawWord_same u
    obtain ⟨hk, hmem⟩ := hf u.drawWord.1 u.drawWord.2 (hd.sr.trans hc.sr)
    exact entersAddressError_of hexec (hk.after (hc.trans hd.core)) fun t ht b =>
      (ht b).trans ((hmem b).trans ((hd.byteAt b).trans (hs.byteAt b)))

/-! What each kind of destination opens: a general register, none, GBR, VBR, or SR. -/

theorem opensOnly_reg (n : Reg) : OpensOnly s (fun v t => t.setReg n v) [n] [] [] := fun v t _ =>
  ⟨⟨rfl, rfl, fun r hr => t.reg_setReg_ne v (by simpa using hr), fun _ _ => rfl, fun x _ => by cases x <;> rfl⟩, fun _ => rfl⟩

theorem opensOnly_nothing : OpensOnly s (fun _ t => t) [] [] [] := fun _ t _ => ⟨(Core.refl t).keepsBut, fun _ => rfl⟩

theorem opensOnly_gbr : OpensOnly s (fun v t => { t with gbr := v }) [] [] [.gbr] := fun v t _ =>
  ⟨⟨rfl, rfl, fun _ _ => rfl, fun _ _ => rfl, fun x hx => by cases x <;> first | rfl | simp at hx⟩, fun _ => rfl⟩

theorem opensOnly_vbr : OpensOnly s (fun v t => { t with vbr := v }) [] [] [.vbr] := fun v t _ =>
  ⟨⟨rfl, rfl, fun _ _ => rfl, fun _ _ => rfl, fun x hx => by cases x <;> first | rfl | simp at hx⟩, fun _ => rfl⟩

/-- The reserved bits of SR, those above bit 31 too. -/
theorem reserved_bit {v : Word} (h : v &&& 0xFFFFFC0C = 0) {k : Nat} (hk : ¬ (k < 10 ∧ k ≠ 2 ∧ k ≠ 3)) :
    bitOf v k = false := by
  by_cases hw : k < 32
  · exact (srOk_iff v).1 h k hw hk
  · exact BitVec.getLsbD_of_ge v k (by omega)

/-- SR made open keeps T, and its reserved bits read 0 as before (rule R24, decision D7). -/
theorem opensOnly_sr (h : s.srOk = true) : OpensOnly s spoilSr [] [1, 4, 5, 6, 7, 8, 9] [] := by
  intro v t ht
  refine ⟨⟨rfl, rfl, fun _ _ => rfl, fun k hk => ?_, fun x _ => by cases x <;> rfl⟩, fun _ => rfl⟩
  by_cases h0 : k = 0
  · subst h0
    exact State.setT_flagT _ _
  · have hr : ¬ (k < 10 ∧ k ≠ 2 ∧ k ≠ 3) := by
      simp only [List.mem_cons, List.not_mem_nil, or_false, not_or] at hk
      omega
    have old : t.sr &&& 0xFFFFFC0C = 0 := by rw [ht]; exact of_decide_eq_true h
    calc bitOf (spoilSr v t).sr k = bitOf (v &&& 0x3F3) k := State.setT_bit _ _ h0
      _ = false := reserved_bit (srOk_write v) hr
      _ = bitOf t.sr k := (reserved_bit old hr).symm

theorem readError_loadTo {ea' : Word} {n : Reg} {f : State → State} (he : exec i s = loadTo z ea' n f s)
    (ha : ea' = ea := by rfl) : ReadError i s z ea [n] [] [] :=
  readError_loadOr (he.trans (by rw [ha]; rfl)) (opensOnly_reg n)

theorem readError_load {ea' : Word} {k : Word → State → Result} (he : exec i s = load z ea' s k)
    (ha : ea' = ea := by rfl) : ReadError i s z ea [] [] [] :=
  readError_loadOr (he.trans (by rw [ha]; rfl)) opensOnly_nothing

theorem writeError_store {ea' : Word} {k : State → Result} (he : exec i s = store z ea' v s k)
    (ha : ea' = ea := by rfl) : WriteError i s z ea v := by
  subst ha
  intro x u hx hw
  have hs := cpuWrite_addressError hw
  have hc := (hx.core.trans hs.core).trans (spoilContainer_core z ea' u)
  refine entersAddressError_of (he.trans (store_addressError k hx hw)) hc.keepsBut fun t ht => ⟨fun hm b => ?_, fun hm b hb => ?_⟩
  · have hu : spoilContainer z ea' u = u := if_neg (by simp [hm])
    rw [ht, hu, hs.byteAt]
  · have hopen := spoilContainer_byteAt (z := z) (a := ea') fun _ k hk =>
      ((cpuWrite_misaligned hm hw).behind _ b).trans (hb k hk)
    rw [ht, hopen, hs.byteAt]

/-- The second operand of MAC is the one whose read fails: nothing is accumulated and no register advanced (rule R108). -/
theorem multiplyAccumulate_secondError {step a : Word} {m n : Reg} {y w : State} {k : Word → Word → State → State}
    (he : exec i s = multiplyAccumulate z step m n s k) (hx : Reaches s (s.reg n) x)
    (h1 : cpuRead x z (s.reg n) = .ok a u) (hstep : step = BitVec.ofNat 32 z.bytes)
    (hea : ea = if m = n then s.reg m + BitVec.ofNat 32 z.bytes else s.reg m)
    (hy : Reaches u ea y) (h2 : cpuRead y z ea = .addressError w) :
    EntersAddressError i s [] [] [] (fun e => y.keepsMemory e) := by
  have hs := (cpuRead_addressError h2).trans (spoilDestination_nothing z ea w)
  have hc := ((hx.core.trans (cpuRead_ok h1).core).trans hy.core).trans hs.core
  subst hstep hea
  have hexec := he.trans ((loadOr_ok _ _ hx h1).trans (loadOr_addressError _ _ hy h2))
  exact entersAddressError_of hexec hc.keepsBut fun t ht b => (ht b).trans (hs.byteAt b)

end

/-! ## Effective addresses as the statement writes them (rules R155, R156) -/

theorem scaled_eq (z : Size) (d : Nat) : scaled z d = BitVec.ofNat 32 (z.bytes * d) := by rw [scaled, Nat.mul_comm]

theorem scaled_byte (d : Nat) : scaled .byte d = BitVec.ofNat 32 d := by rw [scaled_eq, Size.bytes, Nat.one_mul]

theorem eaDisp_byte (s : State) (d : Nat) (n : Reg) : s.eaDisp .byte d n = s.reg n + BitVec.ofNat 32 d := by
  rw [State.eaDisp, scaled_byte]

theorem eaDisp_eq (s : State) (z : Size) (d : Nat) (n : Reg) :
    s.eaDisp z d n = s.reg n + BitVec.ofNat 32 (z.bytes * d) := by rw [State.eaDisp, scaled_eq]

theorem eaGbr_byte (s : State) (d : Nat) : s.eaGbr .byte d = s.gbr + BitVec.ofNat 32 d := by rw [State.eaGbr, scaled_byte]

theorem eaGbr_eq (s : State) (z : Size) (d : Nat) : s.eaGbr z d = s.gbr + BitVec.ofNat 32 (z.bytes * d) := by
  rw [State.eaGbr, scaled_eq]

theorem eaIndexed_eq (s : State) (n : Reg) : s.eaIndexed n = s.reg 0 + s.reg n := BitVec.add_comm _ _

theorem eaGbrIndexed_eq (s : State) : s.eaGbrIndexed = s.reg 0 + s.gbr := BitVec.add_comm _ _

theorem eaPcWord_eq (s : State) (d : Nat) : s.eaPcWord d = s.pc + 4 + BitVec.ofNat 32 (2 * d) := by
  rw [State.eaPcWord, scaled_eq]
  rfl

/-- Masking the low two bits is shifting them out. -/
theorem mask_eq_shift (w : Word) : w &&& (0xFFFFFFFC : Word) = w >>> 2 <<< 2 := by
  have mask : ∀ k, k < 32 → (0xFFFFFFFC : Word).getLsbD k = decide (2 ≤ k) := by decide
  apply BitVec.eq_of_getLsbD_eq
  intro k hk
  rw [BitVec.getLsbD_and, mask k hk, BitVec.getLsbD_shiftLeft, BitVec.getLsbD_ushiftRight]
  by_cases h : 2 ≤ k
  · simp [h, hk, show ¬ k < 2 by omega, show 2 + (k - 2) = k by omega]
  · simp [h, show k < 2 by omega]

theorem eaPcLong_eq (s : State) (d : Nat) : s.eaPcLong d = ((s.pc + 4) >>> 2 <<< 2) + BitVec.ofNat 32 (4 * d) := by
  rw [State.eaPcLong, State.pcOperand, mask_eq_shift, scaled_eq]
  rfl

/-! ## Instructions that a delay slot refuses, outside one; and MAC -/

/-- Outside a delay slot a PC-relative transfer has its meaning. -/
theorem pcRelative_none {s : State} (k : State → Result) (h : s.slot = none) : pcRelative s k = k s := by
  simp [pcRelative, h]

theorem exec_movWPc {s : State} (d : Nat) (n : Reg) (h : s.slot = none) :
    exec (.movWPc d n) s = loadTo .word (s.eaPcWord d) n id s :=
  pcRelative_none (fun s => loadTo .word (s.eaPcWord d) n id s) h

theorem exec_movLPc {s : State} (d : Nat) (n : Reg) (h : s.slot = none) :
    exec (.movLPc d n) s = loadTo .long (s.eaPcLong d) n id s :=
  pcRelative_none (fun s => loadTo .long (s.eaPcLong d) n id s) h

theorem exec_rte {s : State} (h : s.slot = none) : exec .rte s = returnFromException s :=
  notInSlot_none returnFromException h

theorem exec_macW (m n : Reg) (s : State) : exec (.macW m n) s =
    multiplyAccumulate .word 2 m n s (fun a b s => accumulateWord s (signedHalf a * signedHalf b)) := rfl

theorem exec_macL (m n : Reg) (s : State) : exec (.macL m n) s =
    multiplyAccumulate .long 4 m n s (fun a b s => accumulateLong s (a.toInt * b.toInt)) := rfl

theorem exec_ldcLSr {s : State} (m : Reg) (h : s.slot = none) :
    exec (.ldcLSr m) s = loadSystem m spoilSr s (fun v s => s.writeSr v) :=
  notInSlot_none (fun s => loadSystem m spoilSr s (fun v s => s.writeSr v)) h

/-- Settles O12: each form is a shared operation, whose access failing is said once above. -/
theorem addressErrorEntry : Obligations.AddressErrorEntry := by
  unfold Obligations.AddressErrorEntry
  intro s m n imm d load into byteForm push
  have dispByte := eaDisp_byte s d
  have disp := fun z => eaDisp_eq s z d
  have gbrByte := eaGbr_byte s d
  have gbr := fun z => eaGbr_eq s z d
  have indexed := eaIndexed_eq s
  have gbrIndexed := eaGbrIndexed_eq s
  refine ⟨?loads, fun hslot => ?outsideSlot, ?special, ?mac, ?bytes, ?stores, ?pushes⟩
  case loads =>
    exact ⟨readError_loadTo rfl, readError_loadTo rfl, readError_loadTo rfl, readError_loadTo rfl, readError_loadTo rfl,
      readError_loadTo rfl, readError_loadTo rfl (dispByte m), readError_loadTo rfl (disp .word m),
      readError_loadTo rfl (disp .long m), readError_loadTo rfl (indexed m), readError_loadTo rfl (indexed m),
      readError_loadTo rfl (indexed m), readError_loadTo rfl gbrByte, readError_loadTo rfl (gbr .word),
      readError_loadTo rfl (gbr .long)⟩
  case outsideSlot =>
    exact ⟨readError_loadTo (exec_movWPc d n hslot) (eaPcWord_eq s d),
      readError_loadTo (exec_movLPc d n hslot) (eaPcLong_eq s d),
      fun hsr => readError_loadOr (exec_ldcLSr m hslot) (opensOnly_sr hsr),
      readError_load (exec_rte hslot)⟩
  case special =>
    exact ⟨readError_loadOr rfl opensOnly_gbr, readError_loadOr rfl opensOnly_vbr, readError_loadOr rfl opensOnly_nothing,
      readError_loadOr rfl opensOnly_nothing, readError_loadOr rfl opensOnly_nothing⟩
  case mac =>
    refine ⟨readError_load rfl, readError_load rfl, ?_⟩
    intro z x a u hx h1 ea y w hy h2
    constructor <;> rintro rfl
    · exact multiplyAccumulate_secondError (exec_macW m n s) hx h1 rfl rfl hy h2
    · exact multiplyAccumulate_secondError (exec_macL m n s) hx h1 rfl rfl hy h2
  case bytes =>
    exact ⟨readError_load rfl gbrIndexed, readError_load rfl gbrIndexed, readError_load rfl gbrIndexed,
      readError_load rfl gbrIndexed, readError_load rfl⟩
  case stores =>
    exact ⟨writeError_store rfl, writeError_store rfl, writeError_store rfl, writeError_store rfl, writeError_store rfl,
      writeError_store rfl, writeError_store rfl (dispByte n), writeError_store rfl (disp .word n),
      writeError_store rfl (disp .long n), writeError_store rfl (indexed n), writeError_store rfl (indexed n),
      writeError_store rfl (indexed n), writeError_store rfl gbrByte, writeError_store rfl (gbr .word),
      writeError_store rfl (gbr .long)⟩
  case pushes =>
    exact ⟨writeError_store rfl, writeError_store rfl, writeError_store rfl, writeError_store rfl, writeError_store rfl,
      writeError_store rfl⟩

end Sys2Proof.Machine
end

section
/-! PROOF. The decoder and the encoder (statements O1 to O4): how the fields of each format spell an instruction, the tables
of the opcode map one by one, and the codes that are no instruction. -/

namespace Sys2Proof

/-! ## Fields -/

theorem nibble_eq {x : BitVec 4} {k : Nat} (h : x.toNat = k) : x = BitVec.ofNat 4 k := by
  rw [← h, BitVec.ofNat_toNat, BitVec.setWidth_eq]

theorem checkDisp4_isNone {disp : Nat} : (checkDisp4 disp).isNone = true ↔ disp < 16 := by
  unfold checkDisp4
  split <;> simp [*]

theorem checkDisp8_isNone {disp : Nat} : (checkDisp8 disp).isNone = true ↔ disp < 256 := by
  unfold checkDisp8
  split <;> simp [*]

/-! Every field is made of whole nibbles, a displacement that fits its field too (rule R153). -/

theorem field8_nibbles (v : BitVec 8) : ∃ c d : BitVec 4, v = c ++ d := ⟨_, _, (nib8_append v).symm⟩

theorem field12_nibbles (v : BitVec 12) : ∃ b c d : BitVec 4, v = b ++ c ++ d := ⟨_, _, _, (nib12_append v).symm⟩

theorem disp8_nibbles {disp : Nat} (h : (checkDisp8 disp).isNone = true) : ∃ c d, disp = disp8 c d :=
  ⟨_, _, (disp8_d8 (checkDisp8_isNone.1 h)).symm⟩

theorem disp4_nibble {disp : Nat} (h : (checkDisp4 disp).isNone = true) : ∃ d : BitVec 4, disp = d.toNat :=
  ⟨_, (d4_toNat (checkDisp4_isNone.1 h)).symm⟩

/-! ## Spelling an instruction (rules R152 to R155) -/

/-- The four nibbles are the word of the instruction, which is well-formed. -/
structure Spells (a b c d : BitVec 4) (i : Instr) : Prop where
  wellFormed : i.wellFormed = true
  encode : encode i = word4 a b c d

section
variable {a b c d : BitVec 4} {i : Instr}

/-- The last two nibbles are an immediate or a branch displacement. -/
theorem spells_field8 (hw : i.wellFormed = true) (he : encode i = word4 a b (nib8 (c ++ d) 1) (nib8 (c ++ d) 0)) :
    Spells a b c d i := by
  obtain ⟨hc, hd⟩ := nib8_of_append c d
  exact ⟨hw, by rw [he, hc, hd]⟩

/-- The last three nibbles are the displacement of BRA or BSR. -/
theorem spells_field12 (hw : i.wellFormed = true)
    (he : encode i = word4 a (nib12 (b ++ c ++ d) 2) (nib12 (b ++ c ++ d) 1) (nib12 (b ++ c ++ d) 0)) :
    Spells a b c d i := by
  obtain ⟨hb, hc, hd⟩ := nib12_of_append b c d
  exact ⟨hw, by rw [he, hb, hc, hd]⟩

/-- The last two nibbles count operands from a base. -/
theorem spells_disp8 (hw : i.illFormed = checkDisp8 (disp8 c d))
    (he : encode i = word4 a b (d8hi (disp8 c d)) (d4 (disp8 c d))) : Spells a b c d i := by
  obtain ⟨hc, hd⟩ := d4_disp8 c d
  refine ⟨?_, by rw [he, hc, hd]⟩
  rw [Instr.wellFormed, hw, checkDisp8_isNone, disp8]
  omega

/-- The last nibble counts operands from a base. -/
theorem spells_disp4 (hw : i.illFormed = checkDisp4 d.toNat) (he : encode i = word4 a b c (d4 d.toNat)) :
    Spells a b c d i := by
  refine ⟨?_, by rw [he, d4, BitVec.ofNat_toNat, BitVec.setWidth_eq]⟩
  rw [Instr.wellFormed, hw, checkDisp4_isNone]
  omega

/-- What the opcode map reads in the nibbles that spell an instruction, the decoder reads in its word. -/
theorem Spells.decode (h : Spells a b c d i) (hn : decodeNibbles a b c d = .ok i) :
    decode (Sys2Proof.encode i) = .ok i := by
  rw [h.encode, decode_word4, hn]

end

/-- Settles O1, format by format: an instruction's fields are nibbles, and those spell it. -/
theorem decodeEncode : Obligations.DecodeEncode := by
  unfold Obligations.DecodeEncode
  intro i hi
  cases i with
  | movImm v | addImm v | cmpEqImm v | andImm v | andB v | orImm v | orB v | tstImm v | tstB v | xorImm v | xorB v
  | bf v | bfS v | bt v | btS v | trapa v =>
    obtain ⟨c, d, rfl⟩ := field8_nibbles v
    exact Spells.decode (spells_field8 rfl rfl) rfl
  | bra v | bsr v =>
    obtain ⟨b, c, d, rfl⟩ := field12_nibbles v
    exact Spells.decode (spells_field12 rfl rfl) rfl
  | movWPc disp | movLPc disp | movBStoreGbr disp | movWStoreGbr disp | movLStoreGbr disp | movBLoadGbr disp
  | movWLoadGbr disp | movLLoadGbr disp | mova disp =>
    obtain ⟨c, d, rfl⟩ := disp8_nibbles hi
    exact Spells.decode (spells_disp8 rfl rfl) rfl
  | movBStoreDisp disp | movWStoreDisp disp | movLStoreDisp _ disp | movBLoadDisp disp | movWLoadDisp disp
  | movLLoadDisp disp =>
    obtain ⟨d, rfl⟩ := disp4_nibble hi
    exact Spells.decode (spells_disp4 rfl rfl) rfl
  | _ => exact Spells.decode ⟨rfl, rfl⟩ rfl

/-- Settles O3: each word is the one that the encoder writes for its instruction. -/
theorem decodeWords : Obligations.DecodeWords := by
  unfold Obligations.DecodeWords
  have spelled {w : Half} {i : Instr} (hi : i.wellFormed = true) (hw : encode i = w) : decode w = .ok i :=
    hw ▸ decodeEncode i hi
  exact ⟨spelled rfl rfl, spelled rfl rfl, spelled rfl rfl, spelled rfl rfl, spelled rfl rfl, spelled rfl rfl,
    spelled rfl rfl, spelled rfl rfl, spelled rfl rfl, spelled rfl rfl, spelled rfl rfl, spelled rfl rfl,
    spelled rfl rfl, spelled rfl rfl⟩

/-! ## The tables of the opcode map (rule R160) -/

/-- What a table of the opcode map may answer to four nibbles: an instruction that they spell, or an undefined code. -/
def Faithful (a b c d : BitVec 4) : Except DecodeError Instr → Prop
  | .ok i => Spells a b c d i
  | .error e => e = .undefinedCode

section
variable {b c d : BitVec 4}

/-- An instruction without operands is one word alone: the nibble `b` is 0 too. -/
theorem faithful_single {a : BitVec 4} {i : Instr} (h : Spells a 0 c d i) :
    Faithful a b c d (if b = 0 then .ok i else .error .undefinedCode) := by
  split
  · next hb => exact hb ▸ h
  · rfl

theorem decode0_faithful : Faithful 0 b c d (decode0 b c d) := by
  unfold decode0
  split
  case h_15 => rfl
  case h_1 hd | h_2 hd | h_9 hd =>
    rw [nibble_eq hd]
    split
    on_goal -1 => rfl
    all_goals
      next hc =>
      rw [nibble_eq hc]
      exact ⟨rfl, rfl⟩
  case h_7 hd | h_10 hd =>
    rw [nibble_eq hd]
    split
    case h_4 => rfl
    all_goals
      next hc =>
      rw [nibble_eq hc]
      exact faithful_single ⟨rfl, rfl⟩
  case h_8 hd =>
    rw [nibble_eq hd]
    split
    case h_4 => rfl
    case h_3 hc =>
      rw [nibble_eq hc]
      exact ⟨rfl, rfl⟩
    all_goals
      next hc =>
      rw [nibble_eq hc]
      exact faithful_single ⟨rfl, rfl⟩
  all_goals
    next hd =>
    rw [nibble_eq hd]
    exact ⟨rfl, rfl⟩

theorem decode2_faithful : Faithful 2 b c d (decode2 b c d) := by
  unfold decode2
  split
  case h_16 => rfl
  all_goals
    next hd =>
    rw [nibble_eq hd]
    exact ⟨rfl, rfl⟩

theorem decode3_faithful : Faithful 3 b c d (decode3 b c d) := by
  unfold decode3
  split
  case h_15 => rfl
  all_goals
    next hd =>
    rw [nibble_eq hd]
    exact ⟨rfl, rfl⟩

theorem decode4_faithful : Faithful 4 b c d (decode4 b c d) := by
  unfold decode4
  split
  case h_15 => rfl
  case h_14 hd =>
    rw [nibble_eq hd]
    exact ⟨rfl, rfl⟩
  all_goals
    next hd =>
    rw [nibble_eq hd]
    split
    on_goal -1 => rfl
    all_goals
      next hc =>
      rw [nibble_eq hc]
      exact ⟨rfl, rfl⟩

theorem decode6_faithful : Faithful 6 b c d (decode6 b c d) := by
  unfold decode6
  split
  case h_16 =>
    have hd : d.toNat = 15 := by simp only [imp_false] at *; omega
    rw [nibble_eq hd]
    exact ⟨rfl, rfl⟩
  all_goals
    next hd =>
    rw [nibble_eq hd]
    exact ⟨rfl, rfl⟩

theorem decode8_faithful : Faithful 8 b c d (decode8 b c d) := by
  unfold decode8
  split
  case h_1 hb | h_2 hb | h_3 hb | h_4 hb =>
    rw [nibble_eq hb]
    exact spells_disp4 rfl rfl
  case h_10 => rfl
  all_goals
    next hb =>
    rw [nibble_eq hb]
    exact spells_field8 rfl rfl

theorem decodeC_faithful : Faithful 12 b c d (decodeC b c d) := by
  unfold decodeC
  split
  case h_1 hb | h_2 hb | h_3 hb | h_5 hb | h_6 hb | h_7 hb | h_8 hb =>
    rw [nibble_eq hb]
    exact spells_disp8 rfl rfl
  case h_16 =>
    have hb : b.toNat = 15 := by simp only [imp_false] at *; omega
    rw [nibble_eq hb]
    exact spells_field8 rfl rfl
  all_goals
    next hb =>
    rw [nibble_eq hb]
    exact spells_field8 rfl rfl

end

/-! ## The whole map -/

section
variable {a b c d : BitVec 4}

/-- The last line of the map holds the illegal codes (rule R162). -/
theorem decodeNibbles_last (h : a.toNat = 15) : decodeNibbles a b c d = .error .illegalCode := by
  rw [nibble_eq h]
  rfl

/-- The other lines answer an instruction that the nibbles spell, or an undefined code. -/
theorem decodeNibbles_faithful (h : a.toNat ≠ 15) : Faithful a b c d (decodeNibbles a b c d) := by
  unfold decodeNibbles
  split
  case h_1 ha => exact nibble_eq ha ▸ decode0_faithful
  case h_3 ha => exact nibble_eq ha ▸ decode2_faithful
  case h_4 ha => exact nibble_eq ha ▸ decode3_faithful
  case h_5 ha => exact nibble_eq ha ▸ decode4_faithful
  case h_7 ha => exact nibble_eq ha ▸ decode6_faithful
  case h_9 ha => exact nibble_eq ha ▸ decode8_faithful
  case h_13 ha => exact nibble_eq ha ▸ decodeC_faithful
  case h_2 ha | h_6 ha =>
    rw [nibble_eq ha]
    exact spells_disp4 rfl rfl
  case h_8 ha | h_15 ha =>
    rw [nibble_eq ha]
    exact spells_field8 rfl rfl
  case h_10 ha | h_14 ha =>
    rw [nibble_eq ha]
    exact spells_disp8 rfl rfl
  case h_11 ha | h_12 ha =>
    rw [nibble_eq ha]
    exact spells_field12 rfl rfl
  case h_16 =>
    simp only [imp_false] at *
    omega

end

/-! ## Words -/

theorem decode_last {w : Half} (h : (nib w 3).toNat = 15) : decode w = .error .illegalCode := decodeNibbles_last h

theorem decode_faithful {w : Half} (h : (nib w 3).toNat ≠ 15) :
    Faithful (nib w 3) (nib w 2) (nib w 1) (nib w 0) (decode w) := decodeNibbles_faithful h

theorem nib3_toNat (w : Half) : (nib w 3).toNat = w.toNat / 4096 := by
  have := w.isLt
  simp only [nib, BitVec.extractLsb'_toNat, Nat.shiftRight_eq_div_pow]
  omega

/-- Settles O2: the map is faithful line by line, and a word is the word of its nibbles. -/
theorem encodeDecode : Obligations.EncodeDecode := by
  unfold Obligations.EncodeDecode
  intro w i h
  by_cases hl : (nib w 3).toNat = 15
  · rw [decode_last hl] at h
    cases h
  · have hf := decode_faithful hl
    rw [h] at hf
    exact ⟨hf.wellFormed, hf.encode.trans (word4_nib w)⟩

/-- Settles O4: the illegal codes are the last line of the map, and no other line answers one. -/
theorem illegalCodes : Obligations.IllegalCodes := by
  unfold Obligations.IllegalCodes
  intro w
  have last : (nib w 3).toNat = 15 ↔ 0xF000 ≤ w.toNat := by
    rw [nib3_toNat]
    omega
  rw [← last]
  refine ⟨fun h => ?_, decode_last⟩
  by_contra hl
  have hf := decode_faithful hl
  rw [h] at hf
  cases hf

end Sys2Proof
end

section
/-! PROOF. Slot illegal instructions and undefined codes (statements O25 and O41): the entry of an exception that undoes the
delayed branch, and what the fetch of an undefined code comes to. -/

namespace Sys2Proof.Machine

/-! ## An exception of the instruction at pc -/

section
variable {s t : State}

/-- What leaves the CPU and memory alone leaves them untouched. -/
theorem Same.untouched {specials : List Special} (h : Same s t) : s.untouched t specials :=
  ⟨h.regs, h.sr, fun x _ => h.core.special x, h.byteAt⟩

/-- Putting PR back touches PR alone. -/
theorem Same.untouched_pr (h : Same s t) (v : Word) : s.untouched { t with pr := v } [.pr] := by
  refine ⟨h.regs, h.sr, fun x hx => ?_, h.byteAt⟩
  cases x with
  | gbr => exact h.gbr
  | vbr => exact h.vbr
  | mach => exact h.mach
  | macl => exact h.macl
  | pr => exact absurd (List.mem_singleton_self _) hx

/-- In the slot of a branch other than RTE the entry saves the branch's address, with PR as before the branch (rules R352,
R424). -/
theorem raiseWith_slot {d : DelaySlot} (keep : Bool) (entry : Word → State → Result) (h : Same s t)
    (hs : s.slot = some d) (hr : d.rte = false) :
    ∃ e, raiseWith keep t entry = entry d.branch e ∧ e.pr = d.prBefore ∧ s.untouched e [.pr] := by
  have ht : t.slot = some d := h.slot.trans hs
  exact ⟨{ ubcCancel keep t with pr := d.prBefore }, by simp [raiseWith, ht, hr], rfl,
    (h.trans (ubcCancel_same keep t)).untouched_pr _⟩

/-- In the slot of RTE it stops (rule R383). -/
theorem raiseWith_rteSlot {d : DelaySlot} (keep : Bool) (entry : Word → State → Result) (hs : t.slot = some d)
    (hr : d.rte = true) : raiseWith keep t entry = .fault .exceptionInRteSlot := by
  simp [raiseWith, hs, hr]

/-- A step that comes to an exception, with the CPU and memory as they were, is its entry. -/
theorem stepEnters_of_raiseWith {keep : Bool} {entry : Word → State → Result} (h : Same s.atCpuStep t)
    (hstep : step s = mapNext settle (raiseWith keep t entry)) : s.stepEnters entry := by
  rw [State.stepEnters, hstep]
  refine ⟨fun hs => ?_, fun d hs hr => ?_, fun d hs hr => ?_⟩
  · have ht : t.slot = none := h.slot.trans hs
    have hpc : t.pc = s.pc := h.pc
    exact ⟨ubcCancel keep t, by simp [raiseWith, ht, hpc], (h.trans (ubcCancel_same keep t)).untouched⟩
  · obtain ⟨e, he, hpr, hu⟩ := raiseWith_slot keep entry h hs hr
    exact ⟨e, by rw [he], hpr, hu⟩
  · rw [raiseWith_rteSlot keep entry (h.slot.trans hs) hr]
    rfl

/-! ## Slot illegal instructions (rule R163) -/

/-- Each of them begins with the check that it is not in a slot. -/
theorem exec_slotIllegal {i : Instr} {d : DelaySlot} (hi : i.slotIllegal = true) (hs : s.slot = some d) :
    exec i s = raiseException 6 s := by
  cases i with
  | bf | bfS | bt | btS | bra | braf | bsr | bsrf | jmp | jsr | rts | rte | trapa | ldcSr | ldcLSr =>
    simp only [exec, execBf, execBfS, execBt, execBtS, execBra, execBraf, execBsr, execBsrf, execJmp, execJsr, execRts,
      execRte, execTrapa, execLdcSr, execLdcLSr, notInSlot_some _ hs]
  | _ => exact absurd hi Bool.false_ne_true

/-- Settles O25: the check fails, and the instruction is the exception of vector 6. -/
theorem slotIllegal : Obligations.SlotIllegal := by
  unfold Obligations.SlotIllegal
  intro i s d hi hs
  rw [exec_slotIllegal hi hs]
  exact ⟨raiseWith_slot false _ (Same.refl s) hs, raiseWith_rteSlot false _ hs⟩

/-! ## Undefined codes (rules R162, R453) -/

theorem State.atBoundary_only (s : State) : OnlyUbc s.atCpuStep s.atBoundary := by
  unfold State.atBoundary
  refine OnlyUbc.trans ?_ (ubcMark_only _)
  split
  · exact OnlyUbc.refl _
  · exact ubcBoundary_only _

/-- A fetch that succeeds changes nothing of the CPU. -/
theorem fetchHalf_ok_same {a : Word} {w : Half} (h : fetchHalf s a = .ok w t) : Same s t := by
  have := fetchHalf_same s a
  rwa [h] at this

theorem fetchDecode_illegal {latch : State → State} {k : Instr → State → Result} {w : Half}
    (hf : fetchHalf s s.pc = .ok w t) (hd : decode w = .error .illegalCode) :
    fetchDecode latch s k = illegalException (latch t) := by
  simp [fetchDecode, hf, hd]

theorem fetchDecode_undefined {latch : State → State} {k : Instr → State → Result} {w : Half}
    (hf : fetchHalf s s.pc = .ok w t) (hd : decode w = .error .undefinedCode) :
    fetchDecode latch s k = .fault .undefinedOpcode := by
  simp [fetchDecode, hf, hd]

/-- Where the UBC misses, the CPU's step is the fetch and decode of the instruction at pc, in a delay slot and outside one:
what goes on with a decoded instruction is left open. -/
theorem step_fetchDecode (h : s.cpuNext = true) :
    ∃ latch k, (∀ t, OnlyUbc t (latch t)) ∧
      step s = mapNext settle (fetchDecode latch (if s.slot.isSome then s.atCpuStep else s.atBoundary) k) := by
  obtain ⟨hturn, hrun, hbus, hm, hm2⟩ := s.cpuNext_iff h
  rw [step_run hturn hrun hbus]
  unfold runInstruction
  have hslot : s.atCpuStep.slot = s.slot := rfl
  rw [hslot]
  cases hs : s.slot with
  | none => exact ⟨ubcMark, _, ubcMark_only, congrArg _ (runBoundary_misses hm hm2)⟩
  | some d => exact ⟨id, _, OnlyUbc.refl, congrArg _ (runSlot_misses d hm)⟩

/-- Settles O41: the decoder refuses the fetched word before any request is looked at. -/
theorem undefinedCodeStep : Obligations.UndefinedCodeStep := by
  unfold Obligations.UndefinedCodeStep
  intro s u w h hf
  obtain ⟨latch, k, hl, hstep⟩ := step_fetchDecode h
  have same : Same s.atCpuStep (if s.slot.isSome then s.atCpuStep else s.atBoundary) := by
    split
    · exact Same.refl _
    · exact s.atBoundary_only.same
  generalize (if s.slot.isSome then s.atCpuStep else s.atBoundary) = x at hf hstep same
  have hpc : x.pc = s.pc := same.pc
  rw [← hpc] at hf
  have hu : Same s.atCpuStep (latch u) := (same.trans (fetchHalf_ok_same hf)).trans (hl u).same
  have hslot : (latch u).slot = s.slot := hu.slot
  refine ⟨fun hd => ?_, fun hd => ?_⟩
  · rw [fetchDecode_illegal hf hd, illegalException, hslot] at hstep
    exact stepEnters_of_raiseWith hu hstep
  · rw [hstep, fetchDecode_undefined hf hd]
    rfl

end

end Sys2Proof.Machine
end

section
/-! PROOF. Data transfer (statements O5 to O8): the end of an instruction that changes general registers alone, then one
lemma for each of the three shapes that the family is made of: a register move, a load and a store. -/

namespace Sys2Proof.Machine

section
variable {i : Instr} {s t u e : State} {v : Word} {n : Reg} {regs : List Reg}

/-! ## The end of an instruction that changes general registers alone -/

theorem State.keepsModules.trans (h : s.keepsModules t) (k : t.keepsModules u) : s.keepsModules u :=
  ⟨k.proc.trans h.proc, k.part.trans h.part, k.mode.trans h.mode, k.pins.trans h.pins, k.lines.trans h.lines,
    k.intc.trans h.intc, k.ubcRegs.trans h.ubcRegs, k.ubcFlags.trans h.ubcFlags, k.dtc.trans h.dtc, k.bsc.trans h.bsc,
    k.cpg.trans h.cpg, k.wdt.trans h.wdt, k.cmt.trans h.cmt, k.power.trans h.power, k.flash.trans h.flash,
    k.aud.trans h.aud⟩

/-- The frame of an instruction is what the CPU kept up to its end, and the end. -/
theorem Ended.frame {bits : List Nat} {specials : List Special} {block : Bool} (h : Ended e t block)
    (k : KeepsBut s e regs bits specials) : s.frame t regs bits specials block := by
  obtain ⟨hpc, hslot, hblock⟩ := h.moves
  refine ⟨fun r hr => (h.reg r).trans (k.regs r hr), fun b hb => ?_,
    fun y hy => (h.special y).trans (k.special y hy), ?_, hslot, hblock⟩
  · rw [h.sr, k.sr b hb]
  · rw [hpc, k.slot, k.pc]

/-- Only general registers differ. -/
def RegsOnly (s t : State) : Prop := ∃ r, t = { s with regs := r }

theorem RegsOnly.refl (s : State) : RegsOnly s s := ⟨s.regs, rfl⟩

theorem RegsOnly.setReg (h : RegsOnly s t) (n : Reg) (v : Word) : RegsOnly s (t.setReg n v) := by
  obtain ⟨r, rfl⟩ := h
  exact ⟨_, rfl⟩

theorem RegsOnly.keepsMemory (h : RegsOnly s t) : s.keepsMemory t := by
  obtain ⟨r, rfl⟩ := h
  exact fun _ => rfl

theorem RegsOnly.keepsModules (h : RegsOnly s t) : s.keepsModules t := by
  obtain ⟨r, rfl⟩ := h
  constructor <;> rfl

theorem RegsOnly.keepsBut (h : RegsOnly s t) (hr : s.keepsRegs t regs) : KeepsBut s t regs [] [] := by
  obtain ⟨r, rfl⟩ := h
  exact ⟨rfl, rfl, hr, fun _ _ => rfl, fun y _ => by cases y <;> rfl⟩

theorem keepsRegs_setReg (h : s.keepsRegs t regs) (hn : n ∈ regs) (v : Word) : s.keepsRegs (t.setReg n v) regs :=
  fun r hr => (t.reg_setReg_ne v (ne_of_mem_of_not_mem hn hr).symm).trans (h r hr)

/-- An instruction that began with the CPU's registers of `s`, has come to `u` by its access, and ends with the general
registers of `e`. -/
theorem finish_regsOnly (hc : Core s u) (he : RegsOnly u e) (hr : u.keepsRegs e regs) :
    ∃ t, finish e = .next t ∧ (∀ r, t.reg r = e.reg r) ∧ s.frame t regs [] [] false ∧ u.keepsMemory t ∧
      u.keepsModules t := by
  obtain ⟨t, ht, hend⟩ := finish_ended e
  exact ⟨t, ht, hend.reg, hend.frame ((he.keepsBut hr).after hc), fun b => (hend.byteAt b).trans (he.keepsMemory b),
    he.keepsModules.trans hend.modules⟩

/-! ## Register moves -/

theorem Runs.imp {p q : State → Prop} (h : Runs i s p) (hpq : ∀ t, p t → q t) : Runs i s q := by
  obtain ⟨t, ht, hp⟩ := h
  exact ⟨t, ht, hpq t hp⟩

theorem runs_setReg (he : exec i s = finish (s.setReg n v)) :
    Runs i s (fun t => t.reg n = v ∧ s.frameAll t [n] [] [] false) := by
  obtain ⟨t, ht, hreg, hframe, hmem, hmod⟩ := finish_regsOnly (Core.refl s) ((RegsOnly.refl s).setReg n v)
    (keepsRegs_setReg (fun _ _ => rfl) (List.mem_singleton_self n) v)
  exact ⟨t, he.trans ht, (hreg n).trans (s.reg_setReg_same n v), hframe, hmem, hmod⟩

theorem bitOf_append {k l : Nat} (x : BitVec k) (y : BitVec l) (j : Nat) :
    bitOf (x ++ y) j = if j < l then bitOf y j else bitOf x (j - l) := by
  rw [bitOf, BitVec.getLsbD_append]
  rfl

theorem bitOf_extractLsb' (v : Word) (start len j : Nat) :
    bitOf (v.extractLsb' start len) j = (decide (j < len) && bitOf v (start + j)) :=
  BitVec.getLsbD_extractLsb' start len v j

/-- The bits of a longword put together from the low half of one and the high half of another (SWAP.W, XTRCT). -/
theorem bitOf_halves (v w : Word) :
    (∀ k, k < 16 → bitOf (v.extractLsb' 0 16 ++ w.extractLsb' 16 16) k = bitOf w (k + 16)) ∧
      (∀ k, 16 ≤ k → k < 32 → bitOf (v.extractLsb' 0 16 ++ w.extractLsb' 16 16) k = bitOf v (k - 16)) := by
  refine ⟨fun k hk => ?_, fun k h16 h32 => ?_⟩
  · rw [bitOf_append, if_pos hk, bitOf_extractLsb', decide_eq_true hk, Bool.true_and, Nat.add_comm]
  · rw [bitOf_append, if_neg (by omega), bitOf_extractLsb', decide_eq_true (by omega), Bool.true_and, Nat.zero_add]

/-- The bits of a longword whose two low bytes are exchanged (SWAP.B). -/
theorem bitOf_swapBytes (v : Word) :
    (∀ k, k < 8 → bitOf (v.extractLsb' 16 16 ++ v.extractLsb' 0 8 ++ v.extractLsb' 8 8) k = bitOf v (k + 8)) ∧
      (∀ k, 8 ≤ k → k < 16 →
        bitOf (v.extractLsb' 16 16 ++ v.extractLsb' 0 8 ++ v.extractLsb' 8 8) k = bitOf v (k - 8)) ∧
      (∀ k, 16 ≤ k → bitOf (v.extractLsb' 16 16 ++ v.extractLsb' 0 8 ++ v.extractLsb' 8 8) k = bitOf v k) := by
  refine ⟨fun k hk => ?_, fun k h8 h16 => ?_, fun k h16 => ?_⟩
  · rw [bitOf_append, if_pos hk, bitOf_extractLsb', decide_eq_true hk, Bool.true_and, Nat.add_comm]
  · rw [bitOf_append, if_neg (by omega), bitOf_append, if_pos (by omega), bitOf_extractLsb', decide_eq_true (by omega),
      Bool.true_and, Nat.zero_add]
  · rw [bitOf_append, if_neg (by omega), bitOf_append, if_neg (by omega), bitOf_extractLsb',
      show 16 + (k - 8 - 8) = k by omega]
    by_cases hk : k < 32
    · rw [decide_eq_true (by omega), Bool.true_and]
    · rw [show bitOf v k = false from BitVec.getLsbD_of_ge v k (by omega), Bool.and_false]

theorem sext8_toInt (imm : BitVec 8) : (sext8 imm).toInt = imm.toInt :=
  BitVec.toInt_signExtend_of_le (by decide)

theorem bitWord_toNat (b : Bool) : (bitWord b).toNat = if b then 1 else 0 := by cases b <;> rfl

end

/-- Settles O5: each form sets Rn alone, to a word whose bits are read off its parts. -/
theorem registerMoves : Obligations.RegisterMoves := by
  unfold Obligations.RegisterMoves
  intro s m n imm
  refine ⟨?movImm, runs_setReg rfl, ?movt, ?swapB, ?swapW, ?xtrct⟩
  case movImm =>
    refine (runs_setReg rfl).imp fun t ⟨hn, hframe⟩ => ⟨?_, hframe⟩
    rw [hn, sext8_toInt]
  case movt =>
    refine (runs_setReg rfl).imp fun t ⟨hn, hframe⟩ => ⟨?_, hframe⟩
    rw [hn, bitWord_toNat]
  case swapB =>
    obtain ⟨low, high, upper⟩ := bitOf_swapBytes (s.reg m)
    refine (runs_setReg rfl).imp fun t ⟨hn, hframe⟩ => ?_
    rw [hn]
    exact ⟨low, high, upper, hframe⟩
  case swapW =>
    obtain ⟨low, high⟩ := bitOf_halves (s.reg m) (s.reg m)
    refine (runs_setReg rfl).imp fun t ⟨hn, hframe⟩ => ?_
    rw [hn]
    exact ⟨low, high, hframe⟩
  case xtrct =>
    obtain ⟨low, high⟩ := bitOf_halves (s.reg m) (s.reg n)
    refine (runs_setReg rfl).imp fun t ⟨hn, hframe⟩ => ?_
    rw [hn]
    exact ⟨low, high, hframe⟩

/-! ## Loads -/

section
variable {i : Instr} {s : State} {z : Size} {a a' v : Word} {m n : Reg} {inc : List Reg}

/-- The model's extension of a loaded operand is the one of the statements, a longword's being the longword (rule R103). -/
theorem extendLoad_eq (z : Size) (v : Word) : extendLoad z v = signExtended z v := by
  cases z with
  | byte | word => rfl
  | long => exact (BitVec.signExtend_eq _).symm.trans (congrArg _ (BitVec.setWidth_eq v).symm)

/-- Of the state that an access leaves, the update sets the listed registers to their values and changes nothing else: the
address register of a post-increment or a pre-decrement, or none. -/
structure SetsRegs (f : State → State) (regs : List Reg) (value : Reg → Word) : Prop where
  only : ∀ u : State, RegsOnly u (f u)
  keeps : ∀ u : State, u.keepsRegs (f u) regs
  set : ∀ u : State, ∀ m ∈ regs, (f u).reg m = value m

theorem setsRegs_nothing {value : Reg → Word} : SetsRegs (fun u => u) [] value :=
  ⟨RegsOnly.refl, fun _ _ _ => rfl, fun _ _ h => absurd h List.not_mem_nil⟩

theorem setsRegs_setReg {value : Reg → Word} (hv : value m = v) : SetsRegs (fun u => u.setReg m v) [m] value where
  only u := (RegsOnly.refl u).setReg m v
  keeps _ := keepsRegs_setReg (fun _ _ => rfl) (List.mem_singleton_self m) v
  set u r hr := by rw [List.mem_singleton.1 hr, State.reg_setReg_same, hv]

/-- A load by `loadTo` completes when its read does (rules R103, R158). -/
theorem loads_loadTo {f : State → State} (he : exec i s = loadTo z a' n f s)
    (hf : SetsRegs f inc fun m => s.reg m + BitVec.ofNat 32 z.bytes) (ha : a' = a := by rfl) : Loads i s z a n inc := by
  subst ha
  intro x v u hx hread
  have hsame := cpuRead_ok hread
  have keeps : u.keepsRegs (f u) (n :: inc) := fun r hr => hf.keeps u r fun h => hr (List.mem_cons_of_mem n h)
  obtain ⟨t, ht, hreg, hframe, hmem, hmod⟩ := finish_regsOnly (hx.core.trans hsame.core)
    ((hf.only u).setReg n (extendLoad z v)) (keepsRegs_setReg keeps List.mem_cons_self (extendLoad z v))
  refine ⟨t, (he.trans (loadOr_ok _ _ hx hread)).trans ht, ?loaded, ?advanced, hframe, ?memory, hmod⟩
  case loaded => rw [hreg, State.reg_setReg_same, extendLoad_eq]
  case advanced =>
    intro m hm hmn
    rw [hreg, State.reg_setReg_ne _ _ hmn, hf.set u m hm]
  case memory => exact fun b => (hmem b).trans (hsame.byteAt b)

theorem loads_plain (he : exec i s = loadTo z a' n id s) (ha : a' = a := by rfl) : Loads i s z a n [] :=
  loads_loadTo he setsRegs_nothing ha

theorem loads_postIncrement (he : exec i s = loadTo z (s.reg m) n (fun u => u.setReg m v) s)
    (hv : s.reg m + BitVec.ofNat 32 z.bytes = v := by rfl) : Loads i s z (s.reg m) n [m] :=
  loads_loadTo he (setsRegs_setReg hv)

end

/-- Settles O6: every form is `loadTo`, at an address that the statement writes out. -/
theorem registerLoads : Obligations.RegisterLoads := by
  unfold Obligations.RegisterLoads
  intro s m n d
  have disp := fun z => eaDisp_eq s z d
  have gbr := fun z => eaGbr_eq s z d
  have indexed := eaIndexed_eq s m
  exact ⟨loads_plain rfl, loads_plain rfl, loads_plain rfl,
    loads_postIncrement rfl, loads_postIncrement rfl, loads_postIncrement rfl,
    loads_plain rfl (eaDisp_byte s d m), loads_plain rfl (disp .word m), loads_plain rfl (disp .long m),
    loads_plain rfl indexed, loads_plain rfl indexed, loads_plain rfl indexed,
    loads_plain rfl (eaGbr_byte s d), loads_plain rfl (gbr .word), loads_plain rfl (gbr .long)⟩

/-! ## PC-relative forms -/

/-- In a delay slot a PC-relative transfer stops (rule R157, decision D14). -/
theorem pcRelative_inSlot {s : State} (k : State → Result) (h : s.slot ≠ none) :
    pcRelative s k = .fault .pcRelativeInDelaySlot := by
  obtain ⟨d, hd⟩ := Option.ne_none_iff_exists'.1 h
  simp [pcRelative, hd]

theorem exec_mova {s : State} (d : Nat) (h : s.slot = none) :
    exec (.mova d) s = finish (s.setReg 0 (s.eaPcLong d)) :=
  pcRelative_none (fun s => finish (s.setReg 0 (s.eaPcLong d))) h

/-- Settles O7: outside a slot two loads and a register move, in a slot the stop. (The name `pcRelative`
is an operation's of the model.) -/
theorem pcRelativeForms : Obligations.PcRelative := by
  unfold Obligations.PcRelative
  intro s n d
  refine ⟨fun hslot => ⟨?movW, ?movL, ?mova⟩, fun hslot => ⟨?movWInSlot, ?movLInSlot, ?movaInSlot⟩⟩
  case movW => exact loads_plain (exec_movWPc d n hslot) (eaPcWord_eq s d)
  case movL => exact loads_plain (exec_movLPc d n hslot) (eaPcLong_eq s d)
  case mova =>
    rw [← eaPcLong_eq]
    exact runs_setReg (exec_mova d hslot)
  case movWInSlot => exact pcRelative_inSlot (fun s => loadTo .word (s.eaPcWord d) n id s) hslot
  case movLInSlot => exact pcRelative_inSlot (fun s => loadTo .long (s.eaPcLong d) n id s) hslot
  case movaInSlot => exact pcRelative_inSlot (fun s => finish (s.setReg 0 (s.eaPcLong d))) hslot

/-! ## Stores -/

section
variable {i : Instr} {s : State} {z : Size} {a a' v : Word} {n : Reg} {dec : List Reg}

/-- A store completes when its write does, and the update of its address register comes after it (rule R158). -/
theorem stores_store {f : State → State} (he : exec i s = store z a' v s (fun u => finish (f u)))
    (hf : SetsRegs f dec fun _ => a) (ha : a' = a := by rfl) : Stores i s z a v dec false := by
  subst ha
  intro x u hx hwrite
  have hw := cpuWrite_ok hwrite
  obtain ⟨t, ht, hreg, hframe, hmem, hmod⟩ := finish_regsOnly (hx.core.trans hw.core) (hf.only u) (hf.keeps u)
  refine ⟨t, (he.trans (store_ok _ hx hwrite)).trans ht, ?address, hframe, ?outside, ?peripheral, ?stored, hmem, hmod⟩
  case address => exact fun n hn => (hreg n).trans (hf.set u n hn)
  case outside => exact fun b hb => (hmem b).trans (hw.outside b hb)
  case peripheral => exact fun hp b => (hmem b).trans (hw.peripheral hp b)
  case stored => exact fun hp => (stored_congr fun b _ _ => hmem b).trans (cpuWrite_stored hp hwrite)

theorem stores_plain (he : exec i s = store z a' v s finish) (ha : a' = a := by rfl) : Stores i s z a v [] false :=
  stores_store he setsRegs_nothing ha

theorem stores_preDecrement (he : exec i s = store z a v s (fun u => finish (u.setReg n a))) :
    Stores i s z a v [n] false :=
  stores_store he (setsRegs_setReg rfl)

end

/-- Settles O8: every form is `store`, at an address that the statement writes out. -/
theorem moveStores : Obligations.MoveStores := by
  unfold Obligations.MoveStores
  intro s m n d
  have disp := fun z => eaDisp_eq s z d n
  have gbr := fun z => eaGbr_eq s z d
  have indexed := eaIndexed_eq s n
  exact ⟨stores_plain rfl, stores_plain rfl, stores_plain rfl,
    stores_preDecrement rfl, stores_preDecrement rfl, stores_preDecrement rfl,
    stores_plain rfl (eaDisp_byte s d n), stores_plain rfl (disp .word), stores_plain rfl (disp .long),
    stores_plain rfl indexed, stores_plain rfl indexed, stores_plain rfl indexed,
    stores_plain rfl (eaGbr_byte s d), stores_plain rfl (gbr .word), stores_plain rfl (gbr .long)⟩

end Sys2Proof.Machine
end

section
/-! PROOF. Arithmetic (statements O14 to O19): the end of an instruction that computes in the CPU's registers, the flags
against exact integers, then the statements. -/

namespace Sys2Proof.Machine

section
variable {i : Instr} {s t u e : State} {v : Word} {m n : Reg} {q b : Bool} {k : Nat} {regs : List Reg} {bits : List Nat}
  {specials : List Special}

/-! ## The end of an instruction that computes -/

@[simp] theorem State.setQ_flagQ (s : State) (b : Bool) : (s.setQ b).flagQ = b := by
  simp [State.flagQ, State.setQ, bitOf_withBit]

@[simp] theorem State.setM_flagM (s : State) (b : Bool) : (s.setM b).flagM = b := by
  simp [State.flagM, State.setM, bitOf_withBit]

@[simp] theorem State.setQ_flagM (s : State) (b : Bool) : (s.setQ b).flagM = s.flagM := by
  simp [State.flagM, State.setQ, bitOf_withBit]

@[simp] theorem State.setM_flagQ (s : State) (b : Bool) : (s.setM b).flagQ = s.flagQ := by
  simp [State.flagQ, State.setM, bitOf_withBit]

@[simp] theorem State.setT_flagQ (s : State) (b : Bool) : (s.setT b).flagQ = s.flagQ :=
  s.setT_bit b (by decide)

@[simp] theorem State.setT_flagM (s : State) (b : Bool) : (s.setT b).flagM = s.flagM :=
  s.setT_bit b (by decide)

theorem Ended.flagQ (h : Ended u t b) : t.flagQ = u.flagQ := by simp [State.flagQ, h.sr]

theorem Ended.flagM (h : Ended u t b) : t.flagM = u.flagM := by simp [State.flagM, h.sr]

/-- A computation from `s` to `t`: of the CPU only the listed registers, bits of SR and special registers differ, of the
last the accumulator alone, and nothing outside the CPU. -/
structure Computes (s t : State) (regs : List Reg) (bits : List Nat) (specials : List Special) : Prop
    extends KeepsBut s t regs bits specials where
  only : ∃ r f h l, t = { s with regs := r, sr := f, mach := h, macl := l }

theorem Computes.refl (s : State) (regs : List Reg) (bits : List Nat) (specials : List Special) :
    Computes s s regs bits specials := ⟨(Core.refl s).keepsBut, _, _, _, _, rfl⟩

theorem Computes.keepsMemory (h : Computes s t regs bits specials) : s.keepsMemory t := by
  obtain ⟨_, _, _, _, rfl⟩ := h.only
  exact fun _ => rfl

theorem Computes.keepsModules (h : Computes s t regs bits specials) : s.keepsModules t := by
  obtain ⟨_, _, _, _, rfl⟩ := h.only
  constructor <;> rfl

theorem Computes.trans (h : Computes s t regs bits specials) (k : Computes t u regs bits specials) :
    Computes s u regs bits specials := by
  refine ⟨⟨k.pc.trans h.pc, k.slot.trans h.slot, fun r hr => (k.regs r hr).trans (h.regs r hr),
    fun j hj => (k.sr j hj).trans (h.sr j hj), fun y hy => (k.special y hy).trans (h.special y hy)⟩, ?_⟩
  obtain ⟨_, _, _, _, rfl⟩ := h.only
  obtain ⟨_, _, _, _, rfl⟩ := k.only
  exact ⟨_, _, _, _, rfl⟩

theorem Computes.setReg (h : Computes s t regs bits specials) (hn : n ∈ regs) (v : Word) :
    Computes s (t.setReg n v) regs bits specials :=
  h.trans ⟨⟨rfl, rfl, keepsRegs_setReg (fun _ _ => rfl) hn v, fun _ _ => rfl, fun y _ => by cases y <;> rfl⟩,
    _, _, _, _, rfl⟩

theorem Computes.setBit (h : Computes s t regs bits specials) (hk : k ∈ bits) (hw : k < 32) (b : Bool) :
    Computes s { t with sr := withBit t.sr k b } regs bits specials := by
  refine h.trans ⟨⟨rfl, rfl, fun _ _ => rfl, fun j hj => ?_, fun y _ => by cases y <;> rfl⟩, _, _, _, _, rfl⟩
  rw [bitOf_withBit _ _ _ _ hw, if_neg (ne_of_mem_of_not_mem hk hj).symm]

theorem Computes.setT (h : Computes s t regs bits specials) (hk : 0 ∈ bits) (b : Bool) :
    Computes s (t.setT b) regs bits specials := h.setBit hk (by decide) b

theorem Computes.setQ (h : Computes s t regs bits specials) (hk : 8 ∈ bits) (b : Bool) :
    Computes s (t.setQ b) regs bits specials := h.setBit hk (by decide) b

theorem Computes.setM (h : Computes s t regs bits specials) (hk : 9 ∈ bits) (b : Bool) :
    Computes s (t.setM b) regs bits specials := h.setBit hk (by decide) b

theorem Computes.setMacl (h : Computes s t regs bits specials) (hl : .macl ∈ specials) (v : Word) :
    Computes s { t with macl := v } regs bits specials := by
  refine h.trans ⟨⟨rfl, rfl, fun _ _ => rfl, fun _ _ => rfl, fun y hy => ?_⟩, _, _, _, _, rfl⟩
  cases y with
  | macl => exact absurd hl hy
  | gbr | vbr | mach | pr => rfl

/-- Only the accumulator differs. -/
def Accumulated (s t : State) : Prop := ∃ h l, t = { s with mach := h, macl := l }

theorem Computes.accumulate (h : Computes s t regs bits [.mach, .macl]) (k : Accumulated t u) :
    Computes s u regs bits [.mach, .macl] := by
  obtain ⟨_, _, rfl⟩ := k
  refine h.trans ⟨⟨rfl, rfl, fun _ _ => rfl, fun _ _ => rfl, fun y hy => ?_⟩, _, _, _, _, rfl⟩
  cases y with
  | mach | macl => exact absurd (by simp) hy
  | gbr | vbr | pr => rfl

/-- An instruction that began with the CPU's registers of `s`, has come to `u` by its accesses, and has computed `e`. -/
theorem finish_computed (hc : Core s u) (hk : Computes u e regs bits specials) :
    ∃ t, finish e = .next t ∧ Ended e t false ∧ s.frame t regs bits specials false ∧ u.keepsMemory t ∧
      u.keepsModules t := by
  obtain ⟨t, ht, hend⟩ := finish_ended e
  exact ⟨t, ht, hend, hend.frame (hk.after hc), fun b => (hend.byteAt b).trans (hk.keepsMemory b),
    hk.keepsModules.trans hend.modules⟩

theorem runs_computed (hexec : exec i s = finish e) (hk : Computes s e regs bits specials) :
    Runs i s (fun t => Ended e t false ∧ s.frameAll t regs bits specials false) := by
  obtain ⟨t, ht, hend, hframe, hmem, hmod⟩ := finish_computed (Core.refl s) hk
  exact ⟨t, hexec.trans ht, hend, hframe, hmem, hmod⟩

theorem runs_setT (hexec : exec i s = finish (s.setT b)) :
    Runs i s (fun t => t.flagT = b ∧ s.frameAll t [] [0] [] false) := by
  refine (runs_computed hexec ((Computes.refl s ..).setT (by simp) b)).imp fun t ⟨hend, hframe⟩ => ⟨?_, hframe⟩
  rw [hend.flagT, State.setT_flagT]

theorem runs_setRegT (hexec : exec i s = finish (s.setRegT n v b)) :
    Runs i s (fun t => t.reg n = v ∧ t.flagT = b ∧ s.frameAll t [n] [0] [] false) := by
  refine (runs_computed hexec (((Computes.refl s ..).setReg (by simp) v).setT (by simp) b)).imp
    fun t ⟨hend, hframe⟩ => ⟨?_, ?_, hframe⟩
  · rw [hend.reg, State.reg_setRegT, if_pos rfl]
  · rw [hend.flagT, State.setRegT_flagT]

theorem runs_setMac {x : BitVec 64} (hexec : exec i s = finish (s.setMac x)) :
    Runs i s (fun t => t.mac = x ∧ s.frameAll t [] [] [.mach, .macl] false) := by
  refine (runs_computed hexec ((Computes.refl s ..).accumulate ⟨_, _, rfl⟩)).imp
    fun t ⟨hend, hframe⟩ => ⟨?_, hframe⟩
  rw [hend.mac, State.setMac_mac]

theorem runs_setMacl (hexec : exec i s = finish { s with macl := v }) :
    Runs i s (fun t => t.macl = v ∧ s.frameAll t [] [] [.macl] false) :=
  (runs_computed hexec ((Computes.refl s ..).setMacl (by simp) v)).imp
    fun t ⟨hend, hframe⟩ => ⟨hend.macl, hframe⟩

end

/-! ## Carries, borrows and overflows (rules R250, R253, R254, R280, R282, R283) -/

section
variable (a b : Word) (c : Bool)

theorem bit_le_one : bit c ≤ 1 := by cases c <;> decide

theorem bitWord_toNat_bit : (bitWord c).toNat = bit c := bitWord_toNat c

/-- The sum and its carry are the exact sum. -/
theorem add_carryOut : (a + b + bitWord c).toNat + 2 ^ 32 * bit (carryOut a b c) = a.toNat + b.toNat + bit c := by
  have hc := bit_le_one c
  have ha := a.isLt
  have hb := b.isLt
  rw [BitVec.toNat_add, BitVec.toNat_add, bitWord_toNat_bit, carryOut]
  by_cases h : 2 ^ 32 ≤ a.toNat + b.toNat + bit c
  · rw [decide_eq_true h, show bit true = 1 from rfl]
    omega
  · rw [decide_eq_false h, show bit false = 0 from rfl]
    omega

/-- The difference and its borrow are the exact difference. -/
theorem sub_borrowOut :
    (a - b - bitWord c).toNat + b.toNat + bit c = a.toNat + 2 ^ 32 * bit (borrowOut a b c) := by
  have hc := bit_le_one c
  have ha := a.isLt
  have hb := b.isLt
  rw [BitVec.toNat_sub, BitVec.toNat_sub, bitWord_toNat_bit, borrowOut]
  by_cases h : a.toNat < b.toNat + bit c
  · rw [decide_eq_true h, show bit true = 1 from rfl]
    omega
  · rw [decide_eq_false h, show bit false = 0 from rfl]
    omega

theorem add_carry : (a + b).toNat + 2 ^ 32 * bit (carryOut a b false) = a.toNat + b.toNat := by
  simpa [bitWord, bit] using add_carryOut a b false

theorem sub_borrow : (a - b).toNat + b.toNat = a.toNat + 2 ^ 32 * bit (borrowOut a b false) := by
  simpa [bitWord, bit] using sub_borrowOut a b false

/-- An integer is kept by 32 bits exactly when it is in the signed range. -/
theorem bmod_word_ne_iff (x : Int) : x.bmod (2 ^ 32) ≠ x ↔ x < -(2 ^ 31) ∨ 2 ^ 31 - 1 < x := by
  rw [Int.bmod_def]
  split <;> omega

theorem overflowAdd_iff :
    overflowAdd a b = true ↔ a.toInt + b.toInt < -(2 ^ 31) ∨ 2 ^ 31 - 1 < a.toInt + b.toInt := by
  rw [overflowAdd, decide_eq_true_iff, BitVec.toInt_add, bmod_word_ne_iff]

theorem overflowSub_iff :
    overflowSub a b = true ↔ a.toInt - b.toInt < -(2 ^ 31) ∨ 2 ^ 31 - 1 < a.toInt - b.toInt := by
  rw [overflowSub, decide_eq_true_iff, BitVec.toInt_sub, bmod_word_ne_iff]

theorem sub_toNat_add_mod : ((a - b).toNat + b.toNat) % 2 ^ 32 = a.toNat := by
  rw [← BitVec.toNat_add, BitVec.sub_add_cancel]

end

/-- Settles O14: a form without a flag is a sum or difference of words, and the others are exact with their flag. -/
theorem addSubtract : Obligations.AddSubtract := by
  unfold Obligations.AddSubtract
  intro s m n imm
  refine ⟨?add, ?addImm, ?addc, ?addv, ?sub, ?subc, ?subv, ?neg, ?negc⟩
  case add =>
    refine (runs_setReg rfl).imp fun t ⟨hn, hframe⟩ => ⟨?_, hframe⟩
    rw [hn, BitVec.toNat_add]
  case addImm =>
    refine (runs_setReg rfl).imp fun t ⟨hn, hframe⟩ => ⟨?_, hframe⟩
    rw [hn, BitVec.toInt_add, sext8_toInt]
  case addc =>
    refine (runs_setRegT rfl).imp fun t ⟨hn, hT, hframe⟩ => ⟨?_, hframe⟩
    rw [hn, hT, add_carryOut]
  case addv =>
    refine (runs_setRegT rfl).imp fun t ⟨hn, hT, hframe⟩ => ⟨?_, ?_, hframe⟩
    · rw [hn, BitVec.toInt_add]
    · rw [hT, overflowAdd_iff]
  case sub =>
    refine (runs_setReg rfl).imp fun t ⟨hn, hframe⟩ => ⟨?_, hframe⟩
    rw [hn, sub_toNat_add_mod]
  case subc =>
    refine (runs_setRegT rfl).imp fun t ⟨hn, hT, hframe⟩ => ⟨?_, hframe⟩
    rw [hn, hT, sub_borrowOut]
  case subv =>
    refine (runs_setRegT rfl).imp fun t ⟨hn, hT, hframe⟩ => ⟨?_, ?_, hframe⟩
    · rw [hn, BitVec.toInt_sub]
    · rw [hT, overflowSub_iff]
  case neg =>
    refine (runs_setReg rfl).imp fun t ⟨hn, hframe⟩ => ⟨?_, hframe⟩
    rw [hn, sub_toNat_add_mod]
    rfl
  case negc =>
    refine (runs_setRegT rfl).imp fun t ⟨hn, hT, hframe⟩ => ⟨?_, hframe⟩
    rw [hn, hT, sub_borrowOut]
    exact Nat.zero_add _

/-! ## Comparisons (rules R255 to R263) -/

section
variable {i : Instr} {s : State} {b : Bool} {p : Prop}

theorem runs_setT_iff (hexec : exec i s = finish (s.setT b)) (hp : b = true ↔ p) :
    Runs i s (fun t => (t.flagT = true ↔ p) ∧ s.frameAll t [] [0] [] false) := by
  refine (runs_setT hexec).imp fun t ⟨hT, hframe⟩ => ⟨?_, hframe⟩
  rw [hT, hp]

/-- Bit 31 is the sign. -/
theorem bitOf_sign (v : Word) : bitOf v 31 = true ↔ v.toInt < 0 := by
  rw [bitOf, ← BitVec.msb_eq_getLsbD_last v, BitVec.msb_eq_toInt, decide_eq_true_iff]

theorem byte_eq_iff (x y : Word) (j : Nat) :
    x.extractLsb' (8 * j) 8 = y.extractLsb' (8 * j) 8 ↔ ∀ k, k < 8 → bitOf x (8 * j + k) = bitOf y (8 * j + k) := by
  constructor
  · intro h k hk
    have hbit := congrArg (bitOf · k) h
    simpa only [bitOf_extractLsb', decide_eq_true hk, Bool.true_and] using hbit
  · intro h
    refine BitVec.eq_of_getLsbD_eq fun k hk => ?_
    rw [BitVec.getLsbD_extractLsb', BitVec.getLsbD_extractLsb']
    exact congrArg _ (h k hk)

/-- Some byte is equal in both, at the same place. -/
theorem anyByteEqual_iff (x y : Word) :
    anyByteEqual x y = true ↔ ∃ j, j < 4 ∧ ∀ k, k < 8 → bitOf x (8 * j + k) = bitOf y (8 * j + k) := by
  simp only [← byte_eq_iff, anyByteEqual, Bool.or_eq_true, decide_eq_true_iff]
  constructor
  · rintro (((h | h) | h) | h)
    · exact ⟨3, by decide, h⟩
    · exact ⟨2, by decide, h⟩
    · exact ⟨1, by decide, h⟩
    · exact ⟨0, by decide, h⟩
  · rintro ⟨j, hj, h⟩
    interval_cases j
    · exact .inr h
    · exact .inl (.inr h)
    · exact .inl (.inl (.inr h))
    · exact .inl (.inl (.inl h))

end

/-- Settles O15: each comparison sets T to the decision of its relation, which three of them spell with
signs, bits or bytes. -/
theorem comparisons : Obligations.Comparisons := by
  unfold Obligations.Comparisons
  intro s m n imm Sets
  have equalsImm : s.reg 0 = sext8 imm ↔ (s.reg 0).toInt = imm.toInt := by
    rw [← BitVec.toInt_inj, sext8_toInt]
  have nonnegative : 0 ≤ (s.reg n).toInt ↔ bitOf (s.reg n) 31 = false := by
    rw [← Bool.not_eq_true, bitOf_sign, Int.not_lt]
  exact ⟨runs_setT_iff rfl (decide_eq_true_iff.trans equalsImm), runs_setT_iff rfl decide_eq_true_iff,
    runs_setT_iff rfl decide_eq_true_iff, runs_setT_iff rfl decide_eq_true_iff, runs_setT_iff rfl decide_eq_true_iff,
    runs_setT_iff rfl decide_eq_true_iff, runs_setT_iff rfl decide_eq_true_iff,
    runs_setT_iff rfl (decide_eq_true_iff.trans nonnegative), runs_setT_iff rfl (anyByteEqual_iff _ _)⟩

/-! ## Division steps (rules R264 to R266) -/

section
variable {i : Instr} {s : State} {v : Word} {n : Reg} {q b : Bool}

theorem runs_setRegQT (hexec : exec i s = finish (((s.setReg n v).setQ q).setT b)) :
    Runs i s (fun t => t.reg n = v ∧ t.flagQ = q ∧ t.flagT = b ∧ t.flagM = s.flagM ∧
      s.frameAll t [n] [0, 8] [] false) := by
  refine (runs_computed hexec ((((Computes.refl s ..).setReg (by simp) v).setQ (by simp) q).setT (by simp) b)).imp
    fun t ⟨hend, hframe⟩ => ⟨?_, ?_, ?_, ?_, hframe⟩
  · simp [hend.reg]
  · simp [hend.flagQ]
  · simp [hend.flagT]
  · simp [hend.flagM]

/-- DIV1's shift of T into the partial remainder. -/
theorem shiftIn_toNat (v : Word) (c : Bool) : (v <<< 1 ||| bitWord c).toNat = (2 * v.toNat + bit c) % 2 ^ 32 := by
  have hc := bit_le_one c
  have even : v.toNat <<< 1 % 2 ^ 32 = 2 ^ 1 * (v.toNat % 2 ^ 31) := by
    rw [Nat.shiftLeft_eq]
    omega
  rw [BitVec.toNat_or, BitVec.toNat_shiftLeft, bitWord_toNat_bit, even, ← Nat.two_pow_add_eq_or_of_lt (by omega)]
  omega

theorem bit_xor3 (x y z : Bool) : bit (x != (y != z)) = (bit x + bit y + bit z) % 2 := by
  revert x y z
  decide

end

/-- Settles O16: what DIV0U and DIV0S write is read off, and each branch of DIV1 is exact with its borrow or carry. -/
theorem divisionSteps : Obligations.DivisionSteps := by
  unfold Obligations.DivisionSteps
  intro s m n
  refine ⟨?div0u, ?div0s, ?div1⟩
  case div0u =>
    have computes : Computes s (((s.setM false).setQ false).setT false) [] [0, 8, 9] [] :=
      (((Computes.refl s ..).setM (by simp) false).setQ (by simp) false).setT (by simp) false
    refine (runs_computed rfl computes).imp fun t ⟨hend, hframe⟩ => ⟨?_, ?_, ?_, hframe⟩
    · simp [hend.flagM]
    · simp [hend.flagQ]
    · simp [hend.flagT]
  case div0s =>
    have computes (q m' b : Bool) : Computes s (((s.setQ q).setM m').setT b) [] [0, 8, 9] [] :=
      (((Computes.refl s ..).setQ (by simp) q).setM (by simp) m').setT (by simp) b
    refine (runs_computed rfl (computes _ _ _)).imp fun t ⟨hend, hframe⟩ => ?_
    have hQ : t.flagQ = bitOf (s.reg n) 31 := by simp [hend.flagQ]
    have hM : t.flagM = bitOf (s.reg m) 31 := by simp [hend.flagM]
    have hT : t.flagT = (t.flagM != t.flagQ) := by simp [hQ, hM, hend.flagT]
    exact ⟨by rw [hQ, bitOf_sign], by rw [hM, bitOf_sign], by rw [hT, bne_iff_ne], hframe⟩
  case div1 =>
    refine (runs_setRegQT rfl).imp fun t ⟨hn, hQ, hT, hM, hframe⟩ => ⟨?_, hM, fun hq => ?sub, fun hq => ?add, hframe⟩
    · rw [hT, hQ, hM, beq_iff_eq]
    case sub =>
      rw [if_pos (beq_iff_eq.2 hq)] at hn hQ
      refine ⟨borrowOut (s.reg n <<< 1 ||| bitWord s.flagT) (s.reg m) false, ?_, by rw [hQ, bit_xor3]⟩
      rw [hn, sub_borrow, shiftIn_toNat]
    case add =>
      rw [if_neg (mt beq_iff_eq.1 hq)] at hn hQ
      refine ⟨carryOut (s.reg n <<< 1 ||| bitWord s.flagT) (s.reg m) false, ?_, by rw [hQ, bit_xor3]⟩
      rw [hn, add_carry, shiftIn_toNat]

/-! ## Products (rules R267, R268, R276 to R278) -/

section
variable {w : Nat} (x y : BitVec w)

/-- A signed product fits twice the width. -/
theorem product_toInt (hw : 0 < w) : (BitVec.ofInt (w * 2) (x.toInt * y.toInt)).toInt = x.toInt * y.toInt := by
  have below : (2 : Int) ^ (w * 2 - 2) < 2 ^ (w * 2 - 1) := pow_lt_pow_right₀ (by decide) (by omega)
  have lower := BitVec.le_toInt_mul_toInt (x := x) (y := y)
  have upper := BitVec.toInt_mul_toInt_le (x := x) (y := y)
  exact BitVec.toInt_ofInt_eq_self (by omega) (by omega) (by omega)

/-- An unsigned product fits twice the width. -/
theorem product_toNat : (BitVec.ofNat (w * 2) (x.toNat * y.toNat)).toNat = x.toNat * y.toNat := by
  rw [BitVec.toNat_ofNat, Nat.mod_eq_of_lt BitVec.toNat_mul_toNat_lt]

end

/-- Settles O17: a product of two operands fits twice their width; MUL.L alone keeps the low half. -/
theorem products : Obligations.Products := by
  unfold Obligations.Products
  intro s m n
  refine ⟨?dmuls, ?dmulu, ?mul, ?muls, ?mulu⟩
  case dmuls =>
    refine (runs_setMac rfl).imp fun t ⟨hmac, hframe⟩ => ⟨?_, hframe⟩
    rw [hmac]
    exact product_toInt _ _ (by decide)
  case dmulu =>
    refine (runs_setMac rfl).imp fun t ⟨hmac, hframe⟩ => ⟨?_, hframe⟩
    rw [hmac]
    exact product_toNat _ _
  case mul =>
    refine (runs_setMacl rfl).imp fun t ⟨hmacl, hframe⟩ => ⟨?_, hframe⟩
    rw [hmacl, BitVec.toNat_mul]
  case muls =>
    refine (runs_setMacl rfl).imp fun t ⟨hmacl, hframe⟩ => ⟨?_, hframe⟩
    rw [hmacl]
    exact product_toInt _ _ (by decide)
  case mulu =>
    refine (runs_setMacl rfl).imp fun t ⟨hmacl, hframe⟩ => ⟨?_, hframe⟩
    rw [hmacl, ← BitVec.toNat_setWidth, ← BitVec.toNat_setWidth]
    exact product_toNat _ _

/-! ## Multiply and accumulate (rules R274, R275) -/

section
variable {i : Instr} {s x u y w e : State} {z : Size} {m n : Reg} {a b : Word}

theorem accumulateLong_accumulated (e : State) (p : Int) : Accumulated e (accumulateLong e p) := ⟨_, _, rfl⟩

theorem accumulateWord_accumulated (e : State) (p : Int) : Accumulated e (accumulateWord e p) := by
  unfold accumulateWord
  dsimp only
  split_ifs
  all_goals exact ⟨_, _, rfl⟩

/-- Without S, MAC.L accumulates modulo 2 to the 64. -/
theorem accumulateLong_wraps (p : Int) (h : e.flagS = false) :
    (accumulateLong e p).mac.toInt = (e.mac.toInt + p).bmod (2 ^ 64) := by
  simp [accumulateLong, h, BitVec.toInt_ofInt]

theorem accumulateWord_wraps (p : Int) (h : e.flagS = false) :
    (accumulateWord e p).mac.toInt = (e.mac.toInt + p).bmod (2 ^ 64) := by
  simp [accumulateWord, h, BitVec.toInt_ofInt]

/-- With S, MAC.L saturates to 48 bits. -/
theorem accumulateLong_saturates (p : Int) (h : e.flagS = true) :
    (accumulateLong e p).mac.toInt = max (-(2 ^ 47)) (min (2 ^ 47 - 1) (e.mac.toInt + p)) := by
  have value : (accumulateLong e p).mac = BitVec.ofInt 64 (min (max (e.mac.toInt + p) (-(2 ^ 47))) (2 ^ 47 - 1)) := by
    simp [accumulateLong, h]
  rw [value, BitVec.toInt_ofInt_eq_self (by decide) (by omega) (by omega)]
  omega

/-- With S, MAC.W saturates MACL to 32 bits, and a saturation sets bit 0 of MACH. -/
theorem accumulateWord_saturates (p : Int) (h : e.flagS = true) :
    (accumulateWord e p).macl.toInt = max (-(2 ^ 31)) (min (2 ^ 31 - 1) (e.macl.toInt + p)) ∧
      ((accumulateWord e p).macl.toInt = e.macl.toInt + p → (accumulateWord e p).mach = e.mach) ∧
      ((accumulateWord e p).macl.toInt ≠ e.macl.toInt + p → (accumulateWord e p).mach = e.mach ||| 1) := by
  have high : (0x7FFFFFFF : Word).toInt = 2 ^ 31 - 1 := by decide
  have low : (0x80000000 : Word).toInt = -(2 ^ 31) := by decide
  unfold accumulateWord
  rw [if_pos h]
  dsimp only
  split_ifs with above below
  · rw [high]
    exact ⟨by omega, fun _ => by omega, fun _ => rfl⟩
  · rw [low]
    exact ⟨by omega, fun _ => by omega, fun _ => rfl⟩
  · rw [BitVec.toInt_ofInt_eq_self (by decide) (by omega) (by omega)]
    exact ⟨by omega, fun _ => rfl, fun hne => absurd rfl hne⟩

/-- The address registers of MAC, each advanced after its access, Rn first (rules R274, R275). -/
def advanceBoth (step : Word) (m n : Reg) (w : State) : State :=
  let u := w.setReg n (w.reg n + step)
  u.setReg m (u.reg m + step)

theorem advanceBoth_computes (step : Word) (m n : Reg) (w : State) :
    Computes w (advanceBoth step m n w) [m, n] [] [.mach, .macl] :=
  ((Computes.refl w ..).setReg (by simp) _).setReg (by simp) _

theorem advanceBoth_reg_m (step : Word) (w : State) (h : m ≠ n) :
    (advanceBoth step m n w).reg m = w.reg m + step := by
  rw [advanceBoth, State.reg_setReg_same, State.reg_setReg_ne _ _ h]

theorem advanceBoth_reg_n (step : Word) (w : State) (h : m ≠ n) :
    (advanceBoth step m n w).reg n = w.reg n + step := by
  rw [advanceBoth, State.reg_setReg_ne _ _ h.symm, State.reg_setReg_same]

/-- One register in both places is advanced twice (decision D13). -/
theorem advanceBoth_reg_same (step : Word) (n : Reg) (w : State) :
    (advanceBoth step n n w).reg n = w.reg n + step + step := by
  rw [advanceBoth, State.reg_setReg_same, State.reg_setReg_same]

theorem Accumulated.reg (h : Accumulated s e) (r : Reg) : e.reg r = s.reg r := by
  obtain ⟨_, _, rfl⟩ := h
  rfl

/-- MAC whose two reads succeed completes: its registers are advanced, and MACH and MACL are what `k` leaves of them. -/
theorem runs_multiplyAccumulate {k : Word → Word → State → State}
    (hexec : exec i s = multiplyAccumulate z (BitVec.ofNat 32 z.bytes) m n s k) (hk : ∀ e, Accumulated e (k a b e))
    (hx : Reaches s (s.reg n) x) (h1 : cpuRead x z (s.reg n) = .ok a u)
    (hy : Reaches u (if m = n then s.reg m + BitVec.ofNat 32 z.bytes else s.reg m) y)
    (h2 : cpuRead y z (if m = n then s.reg m + BitVec.ofNat 32 z.bytes else s.reg m) = .ok b w) :
    ∃ e, e.sr = s.sr ∧ e.mach = s.mach ∧ e.macl = s.macl ∧ Runs i s (fun t =>
      t.mach = (k a b e).mach ∧ t.macl = (k a b e).macl ∧
      (m ≠ n → t.reg m = s.reg m + BitVec.ofNat 32 z.bytes ∧ t.reg n = s.reg n + BitVec.ofNat 32 z.bytes) ∧
      (m = n → t.reg n = s.reg n + BitVec.ofNat 32 (2 * z.bytes)) ∧
      s.frame t [m, n] [] [.mach, .macl] false ∧ y.keepsMemory t ∧ w.keepsModules t) := by
  have hread := cpuRead_ok h2
  have hc : Core s w := ((hx.core.trans (cpuRead_ok h1).core).trans hy.core).trans hread.core
  have hacc := hk (advanceBoth (BitVec.ofNat 32 z.bytes) m n w)
  obtain ⟨t, ht, hend, hframe, hmem, hmod⟩ := finish_computed hc ((advanceBoth_computes ..).accumulate hacc)
  have hreg := fun r => (hend.reg r).trans (hacc.reg r)
  refine ⟨advanceBoth (BitVec.ofNat 32 z.bytes) m n w, hc.sr, hc.mach, hc.macl, t, ?runs, hend.mach, hend.macl,
    fun hmn => ⟨?first, ?second⟩, ?twice, hframe, ?memory, hmod⟩
  case runs => rw [hexec, multiplyAccumulate_ok hx h1 hy h2, ← ht, advanceBoth, hc.reg n]
  case first => rw [hreg, advanceBoth_reg_m _ _ hmn, hc.reg]
  case second => rw [hreg, advanceBoth_reg_n _ _ hmn, hc.reg]
  case twice =>
    rintro rfl
    rw [hreg, advanceBoth_reg_same, hc.reg, BitVec.add_assoc, Nat.two_mul, BitVec.ofNat_add]
  case memory => exact fun c => (hmem c).trans (hread.byteAt c)

theorem mac_congr (hh : s.mach = e.mach) (hl : s.macl = e.macl) : s.mac = e.mac := congrArg₂ (· ++ ·) hh hl

end

/-- Settles O18: the registers and the frame are said once for both forms, and the accumulator by the laws of each. (The
name `multiplyAccumulate` is an operation's of the model.) -/
theorem multiplyAccumulates : Obligations.MultiplyAccumulate := by
  unfold Obligations.MultiplyAccumulate
  intro s x u y w m n a b Sum
  refine ⟨fun hx h1 hy h2 => ?macL, fun hx h1 hy h2 => ?macW⟩
  case macL =>
    obtain ⟨e, hsr, hmach, hmacl, hruns⟩ :=
      runs_multiplyAccumulate (exec_macL m n s) (fun e => accumulateLong_accumulated e _) hx h1 hy h2
    have hS : e.flagS = s.flagS := congrArg (bitOf · 1) hsr
    refine hruns.imp fun t ⟨hh, hl, advance, twice, rest⟩ =>
      ⟨advance, twice, fun h => ?_, fun h _ => ?_, nofun, rest⟩
    · rw [mac_congr hh hl, accumulateLong_wraps _ (hS.trans h), mac_congr hmach hmacl]
    · rw [mac_congr hh hl, accumulateLong_saturates _ (hS.trans h), mac_congr hmach hmacl]
  case macW =>
    obtain ⟨e, hsr, hmach, hmacl, hruns⟩ :=
      runs_multiplyAccumulate (exec_macW m n s) (fun e => accumulateWord_accumulated e _) hx h1 hy h2
    have hS : e.flagS = s.flagS := congrArg (bitOf · 1) hsr
    refine hruns.imp fun t ⟨hh, hl, advance, twice, rest⟩ =>
      ⟨advance, twice, fun h => ?_, nofun, fun h _ => ?_, rest⟩
    · rw [mac_congr hh hl, accumulateWord_wraps _ (hS.trans h), mac_congr hmach hmacl]
      rfl
    · rw [hh, hl, ← hmach, ← hmacl]
      exact accumulateWord_saturates _ (hS.trans h)

/-! ## Count and extend (rules R269 to R273) -/

/-- A pattern with n in bits 11 to 8 and m in bits 7 to 4 (rule R153). -/
theorem word4_fields (p c d n m : BitVec 4) :
    word4 p 0 c d ||| (n.setWidth 16 <<< 8) ||| (m.setWidth 16 <<< 4) = word4 p n (c ||| m) d := by
  refine BitVec.eq_of_getLsbD_eq fun k hk => ?_
  simp only [word4, BitVec.getLsbD_or, BitVec.getLsbD_append, BitVec.getLsbD_shiftLeft, BitVec.getLsbD_setWidth]
  interval_cases k <;> simp

/-- The decoder reads the instruction of a pattern and its fields, as the encoder writes it. -/
theorem decode_fields {p c d n m f : BitVec 4} {i : Instr} (hi : i.wellFormed = true) (hf : c ||| m = f)
    (he : encode i = word4 p n f d) :
    decode (word4 p 0 c d ||| (n.setWidth 16 <<< 8) ||| (m.setWidth 16 <<< 4)) = .ok i := by
  rw [word4_fields, hf, ← he, decodeEncode i hi]

/-- A mask of low ones keeps the low bits (EXTU). -/
theorem and_ones_toNat (v : Word) {mask : Word} (k : Nat) (h : mask.toNat = 2 ^ k - 1) :
    (v &&& mask).toNat = v.toNat % 2 ^ k := by
  rw [BitVec.toNat_and, h, Nat.and_two_pow_sub_one_eq_mod]

/-- Settles O19: each word is the one that the encoder writes, and each form sets Rn as the statement says. -/
theorem countAndExtend : Obligations.CountAndExtend := by
  unfold Obligations.CountAndExtend
  intro s m n word
  refine ⟨⟨decode_fields (p := 4) (c := 1) (d := 0) rfl rfl rfl, ?dt⟩,
    ⟨decode_fields (p := 6) (c := 0) (d := 14) rfl BitVec.zero_or rfl, ?extsB⟩,
    ⟨decode_fields (p := 6) (c := 0) (d := 15) rfl BitVec.zero_or rfl, ?extsW⟩,
    ⟨decode_fields (p := 6) (c := 0) (d := 12) rfl BitVec.zero_or rfl, ?extuB⟩,
    ⟨decode_fields (p := 6) (c := 0) (d := 13) rfl BitVec.zero_or rfl, ?extuW⟩⟩
  case dt =>
    refine (runs_setRegT rfl).imp fun t ⟨hn, hT, hframe⟩ => ⟨?_, ?_, hframe⟩
    · rw [hn, BitVec.sub_add_cancel]
    · rw [hn, hT, decide_eq_true_iff]
  case extsB =>
    refine (runs_setReg rfl).imp fun t ⟨hn, hframe⟩ => ⟨?_, hframe⟩
    rw [hn]
    exact BitVec.toInt_signExtend_of_le (by decide)
  case extsW =>
    refine (runs_setReg rfl).imp fun t ⟨hn, hframe⟩ => ⟨?_, hframe⟩
    rw [hn]
    exact BitVec.toInt_signExtend_of_le (by decide)
  case extuB =>
    refine (runs_setReg rfl).imp fun t ⟨hn, hframe⟩ => ⟨?_, hframe⟩
    rw [hn, and_ones_toNat _ 8 rfl]
  case extuW =>
    refine (runs_setReg rfl).imp fun t ⟨hn, hframe⟩ => ⟨?_, hframe⟩
    rw [hn, and_ones_toNat _ 16 rfl]

end Sys2Proof.Machine
end

section
/-! PROOF. Logic (statements O20 and O21): the bits of the logic operations, what TST asks of two operands, and the byte
forms, which end alike after a read and a write that succeed. -/

namespace Sys2Proof.Machine

/-! ## Bits (rules R302, R303, R305 to R307, R310, R311, R313, R314) -/

section
variable {w : Nat}

theorem bitOf_and (x y : BitVec w) (k : Nat) : bitOf (x &&& y) k = (bitOf x k && bitOf y k) := BitVec.getLsbD_and

theorem bitOf_or (x y : BitVec w) (k : Nat) : bitOf (x ||| y) k = (bitOf x k || bitOf y k) := BitVec.getLsbD_or

theorem bitOf_xor (x y : BitVec w) (k : Nat) : bitOf (x ^^^ y) k = (bitOf x k != bitOf y k) := BitVec.getLsbD_xor

theorem bitOf_not (x : BitVec w) {k : Nat} (h : k < w) : bitOf (~~~x) k = !(bitOf x k) := by
  rw [bitOf, BitVec.getLsbD_not, decide_eq_true h, Bool.true_and]
  rfl

/-- A word is 0 exactly when each of its bits is. -/
theorem eq_zero_iff_bits (x : BitVec w) : x = 0 ↔ ∀ k, k < w → bitOf x k = false := by
  constructor
  · rintro rfl k -
    exact BitVec.getLsbD_zero
  · exact fun h => BitVec.eq_of_getLsbD_eq fun k hk => (h k hk).trans BitVec.getLsbD_zero.symm

end

/-- An immediate of a logic instruction has its own bits, and zeros above bit 7. -/
theorem bitOf_zext8 (imm : BitVec 8) {k : Nat} (h : k < 32) : bitOf (zext8 imm) k = bitOf imm k := by
  rw [bitOf, zext8, BitVec.getLsbD_setWidth, decide_eq_true h, Bool.true_and]
  rfl

/-- Two operands share no bit (TST). -/
theorem and_eq_zero_iff_bits (x y : Word) : x &&& y = 0 ↔ ∀ k, k < 32 → (bitOf x k && bitOf y k) = false := by
  simp only [eq_zero_iff_bits, bitOf_and]

/-- An operand and an immediate share no bit: only bits 7 to 0 can be shared (TST). -/
theorem and_zext8_eq_zero_iff_bits (x : Word) (imm : BitVec 8) :
    x &&& zext8 imm = 0 ↔ ∀ k, k < 8 → (bitOf x k && bitOf imm k) = false := by
  rw [and_eq_zero_iff_bits]
  constructor
  · intro h k hk
    rw [← bitOf_zext8 imm (by omega)]
    exact h k (by omega)
  · intro h k hk
    rw [bitOf_zext8 imm hk]
    by_cases h8 : k < 8
    · exact h k h8
    · rw [show bitOf imm k = false from BitVec.getLsbD_of_ge imm k (by omega), Bool.and_false]

/-! ## The register and immediate forms -/

theorem runs_setReg_bits {i : Instr} {s : State} {n : Reg} {v : Word} {f : Nat → Bool}
    (hexec : exec i s = finish (s.setReg n v)) (hv : ∀ k, k < 32 → bitOf v k = f k) :
    Runs i s (fun t => (∀ k, k < 32 → bitOf (t.reg n) k = f k) ∧ s.frameAll t [n] [] [] false) := by
  refine (runs_setReg hexec).imp fun t ⟨hn, hframe⟩ => ⟨?_, hframe⟩
  rw [hn]
  exact hv

/-- Settles O20: each form sets one register bit by bit, or T from the bits that its operands share. -/
theorem logicRegisters : Obligations.LogicRegisters := by
  unfold Obligations.LogicRegisters
  intro s m n imm Bits
  refine ⟨?andReg, ?andImm, ?orReg, ?orImm, ?xorReg, ?xorImm, ?notReg, ?tst, ?tstImm⟩
  case andReg => exact runs_setReg_bits rfl fun k _ => bitOf_and _ _ k
  case andImm => exact runs_setReg_bits rfl fun k hk => by rw [bitOf_and, bitOf_zext8 imm hk]
  case orReg => exact runs_setReg_bits rfl fun k _ => bitOf_or _ _ k
  case orImm => exact runs_setReg_bits rfl fun k hk => by rw [bitOf_or, bitOf_zext8 imm hk]
  case xorReg => exact runs_setReg_bits rfl fun k _ => bitOf_xor _ _ k
  case xorImm => exact runs_setReg_bits rfl fun k hk => by rw [bitOf_xor, bitOf_zext8 imm hk]
  case notReg => exact runs_setReg_bits rfl fun k hk => bitOf_not _ hk
  case tst => exact runs_setT_iff rfl (decide_eq_true_iff.trans (and_eq_zero_iff_bits _ _))
  case tstImm => exact runs_setT_iff rfl (decide_eq_true_iff.trans (and_zext8_eq_zero_iff_bits _ _))

/-! ## The byte forms (rules R301, R304, R308, R309, R312, R315) -/

section
variable {i : Instr} {s x u y w : State} {z : Size} {a a' v : Word} {n : Reg} {f : Word → Word}

/-- After a read that succeeds the CPU is still in program execution. -/
theorem Reaches.run_after_read (hx : Reaches s a x) (hr : cpuRead x z a = .ok v u) : u.proc = .run :=
  ((hx.core.trans (cpuRead_ok hr).core).proc).trans hx.1

theorem storeNow_ok (k : State → Result) (hw : cpuWrite s z a v = .ok () w) : storeNow z a v s k = k w := by
  simp [storeNow, hw]

/-- When the read and the write both succeed, the instruction ends in the state that the write leaves. -/
theorem modifyByte_ok (hx : Reaches s a x) (hr : cpuRead x .byte a = .ok v u) (hy : between a u = .go y)
    (hw : cpuWrite y .byte a (f v) = .ok () w) : modifyByte a s f = finish w :=
  (loadOr_ok _ _ hx hr).trans (store_ok _ ⟨hx.run_after_read hr, hy⟩ hw)

/-- TAS.B writes in the state that its read leaves: nobody comes between (rules R113, R135, R309). -/
theorem exec_tasB_ok (hx : Reaches s (s.reg n) x) (hr : cpuRead x .byte (s.reg n) = .ok v u)
    (hw : cpuWrite u .byte (s.reg n) (v ||| 0x80) = .ok () w) :
    exec (.tasB n) s = finish (w.setT (decide (v = 0))) :=
  (loadOr_ok _ _ hx hr).trans (storeNow_ok _ hw)

/-- The end of an instruction that has written a byte in `y` and computes no more than bits of SR after it. -/
theorem runs_wroteByte {e : State} {bits : List Nat} (hc : Core s y) (hw : cpuWrite y .byte a v = .ok () w)
    (hexec : exec i s = finish e) (he : Computes w e [] bits []) :
    Runs i s (fun t => Ended e t false ∧ s.frame t [] bits [] false ∧
      y.keepsMemoryOutside t .byte (y.storeAddress a) ∧
      (y.plainRam .byte a = true → t.stored .byte a.toNat = lowPart .byte v) ∧
      (∀ b, t.byteAt b = w.byteAt b) ∧ w.keepsModules t) := by
  have hwrite := cpuWrite_ok hw
  obtain ⟨t, ht, hend, hframe, hmem, hmod⟩ := finish_computed (hc.trans hwrite.core) he
  refine ⟨t, hexec.trans ht, hend, hframe, ?outside, ?stored, hmem, hmod⟩
  case outside => exact fun b hb => (hmem b).trans (hwrite.outside b hb)
  case stored => exact fun hp => (stored_congr fun b _ _ => hmem b).trans (cpuWrite_stored hp hw)

/-- AND.B, OR.B and XOR.B: the CPU comes to the write with the state that the other agents leave (rules R113, R135). -/
theorem modifiesByte_modifyByte (hexec : exec i s = modifyByte a' s f) (ha : a' = a) :
    ModifiesByte i s a f [] false (fun _ _ => True) := by
  subst ha
  intro x v u y w hx hr hy hw
  have hgo : between a' u = .go y := hy
  have hcore : Core s y :=
    (hx.core.trans (cpuRead_ok hr).core).trans (Reaches.core ⟨hx.run_after_read hr, hgo⟩)
  exact (runs_wroteByte hcore hw (hexec.trans (modifyByte_ok hx hr hgo hw)) (Computes.refl ..)).imp
    fun t ⟨_, rest⟩ => ⟨trivial, rest⟩

/-- TAS.B sets T exactly when the byte it read was 0. -/
theorem modifiesByte_tasB (s : State) (n : Reg) :
    ModifiesByte (.tasB n) s (s.reg n) (fun v => v ||| 0x80) [0] true (fun v t => t.flagT = true ↔ v = 0) := by
  intro x v u y w hx hr hy hw
  obtain rfl : y = u := hy
  refine (runs_wroteByte (hx.core.trans (cpuRead_ok hr).core) hw (exec_tasB_ok hx hr hw)
    ((Computes.refl ..).setT (List.mem_singleton_self 0) _)).imp fun t ⟨hend, rest⟩ => ⟨?_, rest⟩
  show t.flagT = true ↔ v = 0
  rw [hend.flagT, State.setT_flagT, decide_eq_true_iff]

/-- A load that computes T alone from its operand, and so writes no memory (TST.B). -/
theorem runs_load_setT {c : Word → Bool} (hexec : exec i s = load z a s (fun v t => finish (t.setT (c v))))
    (hx : Reaches s a x) (hr : cpuRead x z a = .ok v u) :
    Runs i s (fun t => t.flagT = c v ∧ s.frame t [] [0] [] false ∧ x.keepsMemory t ∧ u.keepsModules t) := by
  have hread := cpuRead_ok hr
  obtain ⟨t, ht, hend, hframe, hmem, hmod⟩ := finish_computed (hx.core.trans hread.core)
    ((Computes.refl u [] [0] []).setT (List.mem_singleton_self 0) (c v))
  refine ⟨t, (hexec.trans (loadOr_ok _ _ hx hr)).trans ht, ?flag, hframe, ?memory, hmod⟩
  case flag => rw [hend.flagT, State.setT_flagT]
  case memory => exact fun b => (hmem b).trans (hread.byteAt b)

/-- TST.B at the address that the statement writes out (rule R312). -/
theorem exec_tstB (s : State) (imm : BitVec 8) : exec (.tstB imm) s =
    load .byte (s.reg 0 + s.gbr) s (fun v t => finish (t.setT (decide (v &&& imm.setWidth 32 = 0)))) := by
  rw [← eaGbrIndexed_eq]
  rfl

end

/-- Settles O21: three forms are `modifyByte` and TST.B is `load`, all at GBR + R0; TAS.B is said by itself. -/
theorem logicBytes : Obligations.LogicBytes := by
  unfold Obligations.LogicBytes
  intro s n imm
  have gbrIndexed := eaGbrIndexed_eq s
  refine ⟨modifiesByte_modifyByte rfl gbrIndexed, modifiesByte_modifyByte rfl gbrIndexed,
    modifiesByte_modifyByte rfl gbrIndexed, modifiesByte_tasB s n, ?tstB⟩
  case tstB =>
    intro x v u hx hr
    refine (runs_load_setT (exec_tstB s imm) hx hr).imp fun t ⟨hT, rest⟩ => ⟨?_, rest⟩
    rw [hT, decide_eq_true_iff]

end Sys2Proof.Machine
end

section
/-! PROOF. Shifts and rotates (statement O22): the number that a word is after a shift, with the bit that comes in at one
end and the bit that goes out at the other, then the statement. -/

namespace Sys2Proof.Machine

/-! ## One place to the left or right (rules R321 to R328) -/

section
variable {w : Nat} (v : Word) (c : Bool)

theorem bool_toNat : c.toNat = bit c := by cases c <;> rfl

/-- A bit is a digit of the number. -/
theorem bit_bitOf (x : BitVec w) (k : Nat) : bit (bitOf x k) = x.toNat / 2 ^ k % 2 := by
  rw [← bool_toNat, ← Nat.toNat_testBit]
  rfl

/-- To the left with `c` coming in: the word and the bit shifted out are the exact double. -/
theorem shiftLeft_in_out :
    (v <<< 1 ||| bitWord c).toNat + 2 ^ 32 * bit (bitOf v 31) = 2 * v.toNat + bit c := by
  have hv := v.isLt
  have hc := bit_le_one c
  rw [shiftIn_toNat, bit_bitOf]
  omega

theorem shiftLeft_out : (v <<< 1).toNat + 2 ^ 32 * bit (bitOf v 31) = 2 * v.toNat := by
  simpa [bitWord, bit] using shiftLeft_in_out v false

/-- To the right with `c` coming in: `c` stands before bits 31 to 1. -/
theorem withBit_shiftRight_eq_cons : withBit (v >>> 1) 31 c = BitVec.cons c (v.extractLsb' 1 31) := by
  refine BitVec.eq_of_getLsbD_eq fun k hk => ?_
  have hbit : (withBit (v >>> 1) 31 c).getLsbD k = if k = 31 then c else bitOf (v >>> 1) k :=
    bitOf_withBit _ _ _ _ (by decide)
  rw [hbit, BitVec.getLsbD_cons]
  by_cases top : k = 31
  · rw [if_pos top, if_pos top]
  · rw [if_neg top, if_neg top, bitOf, BitVec.getLsbD_ushiftRight, BitVec.getLsbD_extractLsb',
      decide_eq_true (by omega : k < 31), Bool.true_and]

/-- To the right with `c` coming in: the exact half of the number that has `c` in front, the bit shifted out the rest. -/
theorem shiftRight_in_out :
    2 * (withBit (v >>> 1) 31 c).toNat + bit (bitOf v 0) = v.toNat + 2 ^ 32 * bit c := by
  have hv := v.isLt
  rw [withBit_shiftRight_eq_cons, BitVec.toNat_cons', BitVec.extractLsb'_toNat, Nat.shiftLeft_eq,
    Nat.shiftRight_eq_div_pow, bit_bitOf, bool_toNat]
  omega

theorem shiftRight_out : 2 * (v >>> 1).toNat + bit (bitOf v 0) = v.toNat := by
  rw [BitVec.toNat_ushiftRight, Nat.shiftRight_eq_div_pow, bit_bitOf]
  omega

/-- Halving a signed number rounds down, so the bit shifted out is the rest there too. -/
theorem sshiftRight_out : 2 * (v.sshiftRight 1).toInt + bit (bitOf v 0) = v.toInt := by
  have parity : v.toInt % 2 = v.toNat % 2 := by
    rw [BitVec.toInt_eq_toNat_cond]
    split <;> omega
  rw [BitVec.toInt_sshiftRight, Int.shiftRight_eq_div_pow, bit_bitOf]
  omega

/-! ## Several places (rules R329 to R334) -/

theorem shiftLeft_toNat (k : Nat) : (v <<< k).toNat = v.toNat * 2 ^ k % 2 ^ 32 := by
  rw [BitVec.toNat_shiftLeft, Nat.shiftLeft_eq]

theorem shiftRight_toNat (k : Nat) : (v >>> k).toNat = v.toNat / 2 ^ k := by
  rw [BitVec.toNat_ushiftRight, Nat.shiftRight_eq_div_pow]

end

/-! ## The instructions -/

section
variable {i : Instr} {s : State} {n : Reg} {v : Word} {b : Bool} {x : Nat} {q : State → Prop}

/-- What a property asks of Rn and T alone is asked of the values that the instruction gives them. -/
theorem runs_setRegT_of (hexec : exec i s = finish (s.setRegT n v b)) (hq : ∀ t, t.reg n = v → t.flagT = b → q t) :
    Runs i s (fun t => q t ∧ s.frameAll t [n] [0] [] false) :=
  (runs_setRegT hexec).imp fun t ⟨hn, hT, hframe⟩ => ⟨hq t hn hT, hframe⟩

theorem runs_setReg_toNat (hexec : exec i s = finish (s.setReg n v)) (hv : v.toNat = x) :
    Runs i s (fun t => (t.reg n).toNat = x ∧ s.frameAll t [n] [] [] false) := by
  refine (runs_setReg hexec).imp fun t ⟨hn, hframe⟩ => ⟨?_, hframe⟩
  rw [hn, hv]

end

/-- Settles O22: a rotate is a shift whose incoming bit is the one shifted out, or T. -/
theorem shifts : Obligations.Shifts := by
  unfold Obligations.Shifts
  intro s n v To Wide
  refine ⟨?shll, ?shal, ?shlr, ?shar, ?rotl, ?rotr, ?rotcl, ?rotcr, ?shll2, ?shlr2, ?shll8, ?shlr8, ?shll16, ?shlr16⟩
  case shll | shal => exact runs_setRegT_of rfl fun t hn hT => by rw [hn, hT, shiftLeft_out]
  case shlr => exact runs_setRegT_of rfl fun t hn hT => by rw [hn, hT, shiftRight_out]
  case shar => exact runs_setRegT_of rfl fun t hn hT => by rw [hn, hT, sshiftRight_out]
  case rotl | rotcl => exact runs_setRegT_of rfl fun t hn hT => by rw [hn, hT, shiftLeft_in_out]
  case rotr | rotcr => exact runs_setRegT_of rfl fun t hn hT => by rw [hn, hT, shiftRight_in_out]
  case shll2 => exact runs_setReg_toNat rfl (shiftLeft_toNat v 2)
  case shlr2 => exact runs_setReg_toNat rfl (shiftRight_toNat v 2)
  case shll8 => exact runs_setReg_toNat rfl (shiftLeft_toNat v 8)
  case shlr8 => exact runs_setReg_toNat rfl (shiftRight_toNat v 8)
  case shll16 => exact runs_setReg_toNat rfl (shiftLeft_toNat v 16)
  case shlr16 => exact runs_setReg_toNat rfl (shiftRight_toNat v 16)

end Sys2Proof.Machine
end

section
/-! PROOF. Branches (statements O23 and O24): the three ends that the family has outside a delay slot, going on, a branch at
once and a delayed branch, then what each instruction comes to. -/

namespace Sys2Proof.Machine

/-! ## Targets -/

/-- A displacement counts halfwords from the instruction's address plus 4 (rule R155). -/
theorem signExtend_shiftLeft_one {w : Nat} (d : BitVec w) :
    d.signExtend 32 <<< 1 = BitVec.ofInt 32 (2 * d.toInt) := by
  rw [BitVec.shiftLeft_eq_mul_twoPow, BitVec.ofInt_mul, BitVec.mul_comm]
  rfl

theorem State.target8_eq (s : State) (d : BitVec 8) : s.target8 d = s.pc + 4 + BitVec.ofInt 32 (2 * d.toInt) := by
  rw [State.target8, signExtend_shiftLeft_one, State.pcOperand]

theorem State.target12_eq (s : State) (d : BitVec 12) : s.target12 d = s.pc + 4 + BitVec.ofInt 32 (2 * d.toInt) := by
  rw [State.target12, signExtend_shiftLeft_one, State.pcOperand]

section
variable {i : Instr} {s : State} {target target' : Word}

/-! ## The ends of a branch -/

/-- Outside a delay slot an instruction that only ends goes on at pc + 2. -/
theorem goesTo_finish (h : s.slot = none) (hexec : exec i s = finish s) : GoesTo i s (s.pc + 2) := by
  refine (runs_computed hexec (Computes.refl s [] [] [])).imp fun t ⟨_, ⟨hregs, hsr, hspecial, hmoves⟩, hmem, hmod⟩ => ?_
  obtain ⟨hpc, hslot, hblock⟩ := hmoves
  rw [h] at hpc
  exact ⟨hpc, hslot, hblock, hregs, hsr, hspecial, hmem, hmod⟩

theorem goesTo_branchTo (h : s.slot = none) (hexec : exec i s = branchTo target' s) (htarget : target' = target) :
    GoesTo i s target := by
  subst htarget
  obtain ⟨t, ht, hpc, hslot, hblock, hregs, hsr, hspecial, _, hmem, hmod⟩ := branchTo_next target' s
  exact ⟨t, hexec.trans ht, hpc, hslot.trans h, hblock, fun r _ => by rw [State.reg, hregs, State.reg],
    fun k _ => by rw [hsr], fun x _ => hspecial x, hmem, hmod⟩

/-- A delayed branch that has put `pr` into PR; where it keeps PR this is PR itself. -/
theorem delays_delayedBranch {pr : Word} (hexec : exec i s = delayedBranch target' s.pr false { s with pr := pr })
    (htarget : target' = target := by rfl) : Delays i s target pr := by
  subst htarget
  refine ⟨_, hexec, rfl, rfl, rfl, rfl, fun _ _ => rfl, fun _ _ => rfl, fun x hx => ?_, fun _ => rfl, ?_⟩
  · cases x with
    | pr => exact absurd (List.mem_singleton_self _) hx
    | gbr | vbr | mach | macl => rfl
  · constructor <;> rfl

end

/-! ## What comes after the check that a branch is not in a slot -/

section
variable {s : State}

theorem exec_bf (d : BitVec 8) (h : s.slot = none) :
    exec (.bf d) s = if s.flagT then finish s else branchTo (s.target8 d) s :=
  notInSlot_none (fun s => if s.flagT then finish s else branchTo (s.target8 d) s) h

theorem exec_bt (d : BitVec 8) (h : s.slot = none) :
    exec (.bt d) s = if s.flagT then branchTo (s.target8 d) s else finish s :=
  notInSlot_none (fun s => if s.flagT then branchTo (s.target8 d) s else finish s) h

theorem exec_bfS (d : BitVec 8) (h : s.slot = none) :
    exec (.bfS d) s = if s.flagT then finish s else delayedBranch (s.target8 d) s.pr false s :=
  notInSlot_none (fun s => if s.flagT then finish s else delayedBranch (s.target8 d) s.pr false s) h

theorem exec_btS (d : BitVec 8) (h : s.slot = none) :
    exec (.btS d) s = if s.flagT then delayedBranch (s.target8 d) s.pr false s else finish s :=
  notInSlot_none (fun s => if s.flagT then delayedBranch (s.target8 d) s.pr false s else finish s) h

theorem exec_bsr (d : BitVec 12) (h : s.slot = none) :
    exec (.bsr d) s = delayedBranch (s.target12 d) s.pr false { s with pr := s.pc + 4 } :=
  notInSlot_none (fun s => delayedBranch (s.target12 d) s.pr false { s with pr := s.pc + 4 }) h

theorem exec_bsrf (m : Reg) (h : s.slot = none) :
    exec (.bsrf m) s = delayedBranch (s.pc + 4 + s.reg m) s.pr false { s with pr := s.pc + 4 } :=
  notInSlot_none (fun s => delayedBranch (s.pc + 4 + s.reg m) s.pr false { s with pr := s.pc + 4 }) h

theorem exec_jsr (m : Reg) (h : s.slot = none) :
    exec (.jsr m) s = delayedBranch (s.reg m) s.pr false { s with pr := s.pc + 4 } :=
  notInSlot_none (fun s => delayedBranch (s.reg m) s.pr false { s with pr := s.pc + 4 }) h

end

/-- Settles O23: each is one of two ends, and T chooses. -/
theorem plainBranches : Obligations.PlainBranches := by
  unfold Obligations.PlainBranches
  intro s d h target
  have htarget := s.target8_eq d
  refine ⟨fun hT => ⟨?bf_taken, ?bt_not_taken⟩, fun hT => ⟨?bf_not_taken, ?bt_taken⟩⟩
  case bf_taken => exact goesTo_branchTo h (by simp [exec_bf d h, hT]) htarget
  case bt_taken => exact goesTo_branchTo h (by simp [exec_bt d h, hT]) htarget
  case bf_not_taken => exact goesTo_finish h (by simp [exec_bf d h, hT])
  case bt_not_taken => exact goesTo_finish h (by simp [exec_bt d h, hT])

/-- Settles O24: the taken ones are one operation, which the three calls give the return address as PR. -/
theorem delayedBranches : Obligations.DelayedBranches := by
  unfold Obligations.DelayedBranches
  intro s m d e h near far
  have hnear := s.target8_eq d
  have hfar := s.target12_eq e
  refine ⟨fun hT => ⟨?bfS_taken, ?btS_not_taken⟩, fun hT => ⟨?bfS_not_taken, ?btS_taken⟩, ?bra, ?braf, ?bsr, ?bsrf, ?jmp,
    ?jsr, ?rts⟩
  case bfS_taken => exact delays_delayedBranch (by simp [exec_bfS d h, hT]) hnear
  case btS_taken => exact delays_delayedBranch (by simp [exec_btS d h, hT]) hnear
  case bfS_not_taken => exact goesTo_finish h (by simp [exec_bfS d h, hT])
  case btS_not_taken => exact goesTo_finish h (by simp [exec_btS d h, hT])
  case bra => exact delays_delayedBranch (notInSlot_none _ h) hfar
  case braf | jmp | rts => exact delays_delayedBranch (notInSlot_none _ h)
  case bsr => exact delays_delayedBranch (exec_bsr e h) hfar
  case bsrf => exact delays_delayedBranch (exec_bsrf m h)
  case jsr => exact delays_delayedBranch (exec_jsr m h)

end Sys2Proof.Machine
end

section
/-! PROOF. The step that runs an instruction (statement O38): a fetch changes nothing that the INTC selects by, so a boundary
with no request goes on to the decoded instruction. -/

namespace Sys2Proof.Machine

section
variable {s u : State} {w : Half} {i : Instr}

/-! ## The acceptance after a fetch -/

/-- The selection among the sources looks at nothing that a fetch changes. -/
theorem selectSource_fetch (h : OnlyFetch s u) (sources : List IntSource) :
    selectSource u sources = selectSource s sources := by
  obtain ⟨_, _, _, rfl, -, -⟩ := h
  induction sources with
  | nil => rfl
  | cons r rest ih =>
    rw [selectSource, ih]
    rfl

/-- A fetch keeps what is selected, a user break that is held among it. -/
theorem intcSelect_fetch (h : OnlyFetch s u) : intcSelect u = intcSelect s := by
  have sources := selectSource_fetch h intSources
  obtain ⟨_, _, _, rfl, keeps, -⟩ := h
  unfold intcSelect
  rw [sources, keeps.pending]
  rfl

/-- With nothing selected no user break can be taken either. -/
theorem break_not_takeable (h : intcSelect s = none) : (s.ubc.live.pending && breakTakeable s) = false := by
  rw [Bool.eq_false_iff]
  intro hbreak
  obtain ⟨hpending, hmask, -⟩ : s.ubc.live.pending = true ∧ s.mask < 15 ∧ s.irqBlock = false := by
    simpa [breakTakeable] using hbreak
  simp [intcSelect, hpending, hmask] at h

theorem acceptance_none (hselect : intcSelect s = none) (hdtc : s.dtc.addressError = false) : acceptance s = none := by
  simp [acceptance, break_not_takeable hselect, hdtc, hselect]

/-! ## The step of a decoded instruction -/

theorem fetchDecode_ok {latch : State → State} {k : Instr → State → Result} (hf : fetchHalf s s.pc = .ok w u)
    (hd : decode w = .ok i) : fetchDecode latch s k = k i u := by
  simp [fetchDecode, hf, hd]

theorem mapNext_mapNext (f g : State → State) (r : Result) : mapNext f (mapNext g r) = mapNext (fun t => f (g t)) r := by
  cases r <;> rfl

/-- At a boundary the decoded instruction runs unless an exception is accepted (rule R433). -/
theorem step_boundary (h : s.cpuNext = true) (hslot : s.slot = none) (hf : fetchHalf s.atBoundary s.pc = .ok w u)
    (hd : decode w = .ok i) :
    step s = mapNext settle ((acceptance u).elim (mapNext tickWindows (exec i (ubcMark u)))
      fun (vec, newI, t) => enter vec t.pc newI t) := by
  obtain ⟨hturn, hrun, hbus, hmiss, hmissNext⟩ := s.cpuNext_iff h
  have hboundary : runInstruction s.atCpuStep = runBoundary s.atCpuStep := by
    rw [runInstruction, show s.atCpuStep.slot = none from hslot]
  rw [← s.atBoundary_pc] at hf
  rw [step_run hturn hrun hbus, hboundary, runBoundary_misses hmiss hmissNext, fetchDecode_ok hf hd]
  cases acceptance u with
  | none => rfl
  | some accepted => rfl

/-- In a delay slot nothing is accepted (rule R437). -/
theorem step_slot (h : s.cpuNext = true) (hslot : s.slot ≠ none) (hf : fetchHalf s.atCpuStep s.pc = .ok w u)
    (hd : decode w = .ok i) : step s = mapNext (fun t => settle (tickWindows t)) (exec i u) := by
  obtain ⟨hturn, hrun, hbus, hmiss, -⟩ := s.cpuNext_iff h
  obtain ⟨d, hsome⟩ := Option.ne_none_iff_exists'.1 hslot
  have hrunSlot : runInstruction s.atCpuStep = runSlot d s.atCpuStep := by
    rw [runInstruction, show s.atCpuStep.slot = some d from hsome]
  rw [step_run hturn hrun hbus, hrunSlot, runSlot_misses d hmiss, fetchDecode_ok hf hd, mapNext_mapNext]

/-- The DTC is as it was when the boundary's instruction has been fetched. -/
theorem fetchHalf_atBoundary_dtc (hf : fetchHalf s.atBoundary s.pc = .ok w u) : u.dtc = s.dtc := by
  obtain ⟨_, _, hboundary⟩ := s.atBoundary_only
  obtain ⟨_, _, _, rfl, -, -⟩ := fetchHalf_ok hf
  rw [hboundary]
  rfl

end

/-- Settles O38: with nothing selected before the fetch nothing is accepted after it. -/
theorem stepRunsDecoded : Obligations.StepRunsDecoded := by
  unfold Obligations.StepRunsDecoded
  intro s u w i h
  refine ⟨fun hslot hselect hdtc hf hd => ?boundary, fun hslot hf hd => step_slot h hslot hf hd⟩
  case boundary =>
    have hnone : acceptance u = none :=
      acceptance_none ((intcSelect_fetch (fetchHalf_ok hf)).trans hselect)
        ((congrArg Dtc.addressError (fetchHalf_atBoundary_dtc hf)).trans hdtc)
    rw [step_boundary h hslot hf hd, hnone]
    exact mapNext_mapNext _ _ _

end Sys2Proof.Machine
end

section
/-! PROOF. System control (statements O26 to O30): what an instruction that blocks interrupts writes of the CPU, and its end,
then the forms with a register and the forms with memory. -/

namespace Sys2Proof.Machine

/-! ## Writes of the CPU -/

/-- Replace a special register, as the loads of the control and system registers do. -/
def State.setSpecial (s : State) (x : Special) (v : Word) : State :=
  match x with
  | .gbr => { s with gbr := v }
  | .vbr => { s with vbr := v }
  | .mach => { s with mach := v }
  | .macl => { s with macl := v }
  | .pr => { s with pr := v }

@[simp] theorem State.setSpecial_special (s : State) (x : Special) (v : Word) : (s.setSpecial x v).special x = v := by
  cases x <;> rfl

@[simp] theorem State.setSpecial_reg (s : State) (x : Special) (v : Word) (r : Reg) :
    (s.setSpecial x v).reg r = s.reg r := by
  cases x <;> rfl

/-- Of the CPU only the listed registers, bits of SR and special registers differ, and nothing outside it. -/
structure WritesCpu (s t : State) (regs : List Reg) (bits : List Nat) (specials : List Special) : Prop
    extends KeepsBut s t regs bits specials where
  memory : s.keepsMemory t
  modules : s.keepsModules t

section
variable {i : Instr} {s t u e x : State} {v : Word} {m n : Reg} {r : Special} {regs : List Reg} {bits : List Nat}
  {specials : List Special}

theorem WritesCpu.trans (h : WritesCpu s t regs bits specials) (k : WritesCpu t u regs bits specials) :
    WritesCpu s u regs bits specials where
  pc := k.pc.trans h.pc
  slot := k.slot.trans h.slot
  regs := fun r hr => (k.regs r hr).trans (h.regs r hr)
  sr := fun j hj => (k.sr j hj).trans (h.sr j hj)
  special := fun y hy => (k.special y hy).trans (h.special y hy)
  memory := fun b => (k.memory b).trans (h.memory b)
  modules := h.modules.trans k.modules

theorem writesCpu_setReg (s : State) (v : Word) (hn : n ∈ regs) : WritesCpu s (s.setReg n v) regs bits specials :=
  ⟨⟨rfl, rfl, keepsRegs_setReg (fun _ _ => rfl) hn v, fun _ _ => rfl, fun y _ => by cases y <;> rfl⟩, fun _ => rfl,
    by constructor <;> rfl⟩

theorem writesCpu_setSpecial (s : State) (v : Word) (hr : r ∈ specials) :
    WritesCpu s (s.setSpecial r v) regs bits specials := by
  refine ⟨⟨?pc, ?slot, fun n _ => s.setSpecial_reg r v n, fun k _ => ?sr, fun y hy => ?special⟩, fun b => ?memory,
    ?modules⟩
  case special =>
    have hne : y ≠ r := (ne_of_mem_of_not_mem hr hy).symm
    cases r <;> cases y <;> first | rfl | exact absurd rfl hne
  case modules => cases r <;> constructor <;> rfl
  all_goals cases r <;> rfl

/-- Writing SR as a whole leaves the rest of the CPU. -/
theorem writesCpu_writeSr (s : State) (v : Word) (hb : ∀ k, k < 32 → k ∈ bits) :
    WritesCpu s (s.writeSr v) regs bits specials := by
  refine ⟨⟨rfl, rfl, fun _ _ => rfl, fun k hk => ?_, fun y _ => by cases y <;> rfl⟩, fun _ => rfl,
    by constructor <;> rfl⟩
  have h32 : 32 ≤ k := Nat.le_of_not_lt fun h => hk (hb k h)
  exact (BitVec.getLsbD_of_ge _ k h32).trans (BitVec.getLsbD_of_ge _ k h32).symm

/-! ## The end of an instruction that blocks interrupts (rule R436) -/

/-- An instruction that began with the CPU's registers of `s`, has come to `u` by its access, and has written the CPU. -/
theorem finishBlocking_wrote (hc : Core s u) (hk : WritesCpu u e regs bits specials) :
    ∃ t, finishBlocking e = .next t ∧ Ended e t true ∧ s.frame t regs bits specials true ∧ u.keepsMemory t ∧
      u.keepsModules t := by
  obtain ⟨t, ht, hend⟩ := finishBlocking_ended e
  exact ⟨t, ht, hend, hend.frame (hk.after hc), fun b => (hend.byteAt b).trans (hk.memory b),
    hk.modules.trans hend.modules⟩

theorem runs_blocking (hexec : exec i s = finishBlocking e) (hk : WritesCpu s e regs bits specials) :
    Runs i s (fun t => Ended e t true ∧ s.frameAll t regs bits specials true) := by
  obtain ⟨t, ht, hend, hframe, hmem, hmod⟩ := finishBlocking_wrote (Core.refl s) hk
  exact ⟨t, hexec.trans ht, hend, hframe, hmem, hmod⟩

/-! ## The forms with a register -/

theorem runs_loadSpecial (hexec : exec i s = finishBlocking (s.setSpecial r v)) :
    Runs i s (fun t => t.special r = v ∧ s.frameAll t [] [] [r] true) :=
  (runs_blocking hexec (writesCpu_setSpecial s v (List.mem_singleton_self r))).imp
    fun _ ⟨hend, hframe⟩ => ⟨(hend.special r).trans (s.setSpecial_special r v), hframe⟩

theorem runs_storeSpecial (hexec : exec i s = finishBlocking (s.setReg n v)) :
    Runs i s (fun t => t.reg n = v ∧ s.frameAll t [n] [] [] true) :=
  (runs_blocking hexec (writesCpu_setReg s v (List.mem_singleton_self n))).imp
    fun _ ⟨hend, hframe⟩ => ⟨(hend.reg n).trans (s.reg_setReg_same n v), hframe⟩

theorem exec_ldcSr (m : Reg) (h : s.slot = none) : exec (.ldcSr m) s = finishBlocking (s.writeSr (s.reg m)) :=
  notInSlot_none (fun s => finishBlocking (s.writeSr (s.reg m))) h

/-! ## The forms with memory -/

/-- A load of a control or system register whose read succeeds advances Rm, and then writes the register (rule R360). -/
theorem loadSystem_ok {f : Word → State → State} {k : Word → State → State} (hx : Reaches s (s.reg m) x)
    (hr : cpuRead x .long (s.reg m) = .ok v u) :
    loadSystem m f s k = finishBlocking (k v (u.setReg m (s.reg m + 4))) :=
  loadOr_ok _ _ hx hr

/-- What its last write `k` leaves of the CPU, and of Rm, decides what the load does. -/
theorem runs_loadSystem {f : Word → State → State} {k : Word → State → State} (hexec : exec i s = loadSystem m f s k)
    (hk : ∀ t, WritesCpu t (k v t) [m] bits specials) (hm : ∀ t, (k v t).reg m = t.reg m)
    (hx : Reaches s (s.reg m) x) (hr : cpuRead x .long (s.reg m) = .ok v u) :
    Runs i s (fun t => Ended (k v (u.setReg m (s.reg m + 4))) t true ∧ t.reg m = s.reg m + 4 ∧
      s.frame t [m] bits specials true ∧ x.keepsMemory t ∧ u.keepsModules t) := by
  have hread := cpuRead_ok hr
  obtain ⟨t, ht, hend, hframe, hmem, hmod⟩ := finishBlocking_wrote (hx.core.trans hread.core)
    ((writesCpu_setReg u (s.reg m + 4) (List.mem_singleton_self m)).trans (hk _))
  refine ⟨t, (hexec.trans (loadSystem_ok hx hr)).trans ht, hend, ?advanced, hframe, ?memory, hmod⟩
  case advanced => rw [hend.reg, hm, State.reg_setReg_same]
  case memory => exact fun b => (hmem b).trans (hread.byteAt b)

theorem runs_loadSpecialFromMemory {f : Word → State → State}
    (hexec : exec i s = loadSystem m f s (fun v t => t.setSpecial r v))
    (hx : Reaches s (s.reg m) x) (hr : cpuRead x .long (s.reg m) = .ok v u) :
    Runs i s (fun t => t.special r = v ∧ t.reg m = s.reg m + 4 ∧ s.frame t [m] [] [r] true ∧ x.keepsMemory t ∧
      u.keepsModules t) :=
  (runs_loadSystem hexec (fun t => writesCpu_setSpecial t v (List.mem_singleton_self r))
    (fun t => t.setSpecial_reg r v m) hx hr).imp
      fun _ ⟨hend, rest⟩ => ⟨(hend.special r).trans (State.setSpecial_special _ r v), rest⟩

theorem runs_loadSrFromMemory (hslot : s.slot = none) (hx : Reaches s (s.reg m) x)
    (hr : cpuRead x .long (s.reg m) = .ok v u) :
    Runs (.ldcLSr m) s (fun t => t.sr = v &&& 0x3F3 ∧ t.reg m = s.reg m + 4 ∧
      s.frame t [m] (List.range 32) [] true ∧ x.keepsMemory t ∧ u.keepsModules t) :=
  (runs_loadSystem (exec_ldcLSr m hslot) (fun t => writesCpu_writeSr t v fun _ => List.mem_range.2)
    (fun t => t.writeSr_reg v m) hx hr).imp fun _ ⟨hend, rest⟩ => ⟨hend.sr, rest⟩

/-- A store of a control or system register completes when its write does; Rn is lowered after it (rule R360). -/
theorem stores_storeSystem (hexec : exec i s = storeSystem n s v) : Stores i s .long (s.reg n - 4) v [n] true := by
  intro x u hx hw
  have hwrite := cpuWrite_ok hw
  obtain ⟨t, ht, hend, hframe, hmem, hmod⟩ := finishBlocking_wrote (hx.core.trans hwrite.core)
    (writesCpu_setReg u (s.reg n - 4) (List.mem_singleton_self n))
  refine ⟨t, (hexec.trans (store_ok _ hx hw)).trans ht, ?address, hframe, ?outside, ?peripheral, ?stored, hmem, hmod⟩
  case address =>
    intro r hr
    rw [List.mem_singleton.1 hr, hend.reg, State.reg_setReg_same]
  case outside => exact fun b hb => (hmem b).trans (hwrite.outside b hb)
  case peripheral => exact fun hp b => (hmem b).trans (hwrite.peripheral hp b)
  case stored => exact fun hp => (stored_congr fun b _ _ => hmem b).trans (cpuWrite_stored hp hw)

end

/-! ## The statements -/

/-- Settles O26: each word is the one that the encoder writes, and each form computes in the CPU or does nothing. -/
theorem plainControl : Obligations.PlainControl := by
  unfold Obligations.PlainControl
  refine ⟨decodeEncode .clrt rfl, decodeEncode .sett rfl, decodeEncode .clrmac rfl, decodeEncode .nop rfl,
    fun s => ⟨runs_setT rfl, runs_setT rfl, ?clrmac, ?nop⟩⟩
  case clrmac =>
    exact (runs_computed rfl ((Computes.refl s ..).accumulate ⟨0, 0, rfl⟩)).imp
      fun t ⟨hend, hframe⟩ => ⟨hend.mach, hend.macl, hframe⟩
  case nop => exact (runs_computed rfl (Computes.refl s ..)).imp fun t ⟨_, hframe⟩ => hframe

/-- Settles O27: SR is written outside a slot as a whole, and the other five forms are one. -/
theorem loadControl : Obligations.LoadControl := by
  unfold Obligations.LoadControl
  intro s m Into
  refine ⟨fun hslot => ?sr, runs_loadSpecial rfl, runs_loadSpecial rfl, runs_loadSpecial rfl, runs_loadSpecial rfl,
    runs_loadSpecial rfl⟩
  case sr =>
    exact (runs_blocking (exec_ldcSr m hslot) (writesCpu_writeSr s (s.reg m) (by decide))).imp
      fun t ⟨hend, hframe⟩ => ⟨hend.sr, hframe⟩

/-- Settles O28: the five special registers are one form, and SR, outside a slot, is `loadSystem` too. -/
theorem loadControlFromMemory : Obligations.LoadControlFromMemory := by
  unfold Obligations.LoadControlFromMemory
  intro s x u m v hx hr Into
  refine ⟨fun hslot => ?sr, runs_loadSpecialFromMemory rfl hx hr, runs_loadSpecialFromMemory rfl hx hr,
    runs_loadSpecialFromMemory rfl hx hr, runs_loadSpecialFromMemory rfl hx hr, runs_loadSpecialFromMemory rfl hx hr⟩
  case sr =>
    exact (runs_loadSrFromMemory hslot hx hr).imp
      fun t ⟨hsr, hm, ⟨hregs, _, hspecial, hmoves⟩, rest⟩ => ⟨hsr, hm, hregs, hspecial, hmoves, rest⟩

/-- Settles O29: the six forms set Rn alone. -/
theorem storeControl : Obligations.StoreControl := by
  unfold Obligations.StoreControl
  exact fun s n => ⟨runs_storeSpecial rfl, runs_storeSpecial rfl, runs_storeSpecial rfl, runs_storeSpecial rfl,
    runs_storeSpecial rfl, runs_storeSpecial rfl⟩

/-- Settles O30: every form is `storeSystem`. -/
theorem storeControlToMemory : Obligations.StoreControlToMemory := by
  unfold Obligations.StoreControlToMemory
  exact fun s n => ⟨stores_storeSystem rfl, stores_storeSystem rfl, stores_storeSystem rfl, stores_storeSystem rfl,
    stores_storeSystem rfl, stores_storeSystem rfl⟩

end Sys2Proof.Machine
end

section
/-! PROOF. SLEEP (statement O31): the modes as its settings choose them, what the entry of each leaves of the CPU and of memory,
and what the cut of the power leaves of memory below RAM. -/

namespace Sys2Proof.Machine

section
variable {s : State} {a : Nat}

/-! ## The mode that the settings choose (rules R390, R620, R622, R624) -/

theorem exec_sleep_released (h : s.bsc.released = true) : exec .sleep s = .fault .sleepPrecondition := if_pos h

theorem exec_sleep_light (hbus : s.bsc.released = false) (hstby : bitOf s.power.stbcr1 7 = false) :
    exec .sleep s = if s.sleepMeasure then .next { advance s with irqBlock := false, proc := .sleep }
      else .fault .sleepPrecondition := by
  simp [exec, execSleep, lowPower, hbus, hstby]

theorem exec_sleep_software (hbus : s.bsc.released = false) (hstby : bitOf s.power.stbcr1 7 = true)
    (hmd : bitOf s.power.stbcr6 1 = true) :
    exec .sleep s = if s.sleepMeasure && s.softwareStandbyReady then
      .next (enterStandby { advance s with irqBlock := false }) else .fault .sleepPrecondition := by
  simp [exec, execSleep, lowPower, hbus, hstby, hmd]

theorem exec_sleep_deep (hbus : s.bsc.released = false) (hstby : bitOf s.power.stbcr1 7 = true)
    (hmd : bitOf s.power.stbcr6 1 = false) :
    exec .sleep s = if s.standbyReady then .next { powerCut (cutExternalWrite s) with proc := .deep }
      else .fault .sleepPrecondition := by
  simp [exec, execSleep, lowPower, hbus, hstby, hmd]

/-! ## Sleep mode and software standby: the instruction ends, and the modules are not the CPU's -/

theorem advance_ended (s : State) : Ended s { advance s with irqBlock := false } false := by
  obtain ⟨t, ht, hend⟩ := finish_ended s
  cases ht
  exact hend

theorem advance_frame (s : State) : s.frame { advance s with irqBlock := false } [] [] [] false :=
  (advance_ended s).frame (Core.refl s).keepsBut

theorem runs_sleepMode (hbus : s.bsc.released = false) (hstby : bitOf s.power.stbcr1 7 = false)
    (h : s.sleepMeasure = true) :
    Runs .sleep s (fun t => t.proc = .sleep ∧ s.frame t [] [] [] false ∧ s.keepsMemory t) :=
  ⟨_, (exec_sleep_light hbus hstby).trans (if_pos h), rfl, advance_frame s, (advance_ended s).byteAt⟩

theorem runs_softwareStandby (hbus : s.bsc.released = false) (hstby : bitOf s.power.stbcr1 7 = true)
    (hmd : bitOf s.power.stbcr6 1 = true) (h : s.sleepMeasure = true) (hready : s.softwareStandbyReady = true) :
    Runs .sleep s (fun t => t.proc = .standby false ∧ t.cmt = Cmt.reset ∧ s.frame t [] [] [] false ∧
      s.keepsMemory t) :=
  ⟨_, (exec_sleep_software hbus hstby hmd).trans (if_pos (by rw [h, hready]; rfl)), rfl, rfl, advance_frame s,
    (advance_ended s).byteAt⟩

/-! ## Deep software standby: the power is cut -/

/-- Leaving out bytes by their addresses leaves every other byte. -/
theorem Memory.find_filter (p : Nat → Bool) (m : List Host.Cell) (h : p a = true) :
    Memory.find (m.filter fun c => p c.1) a = Memory.find m a := by
  induction m with
  | nil => rfl
  | cons e m ih =>
    obtain ⟨k, b⟩ := e
    by_cases hk : a = k
    · subst hk
      simp [Memory.find, h]
    · by_cases hp : p k = true <;> simp [Memory.find, hk, hp, ih]

/-- RAM alone forgets (rules R128, R624). -/
theorem forgetRam_byteAt (h : a < s.part.ramBase) : (forgetRam s).byteAt a = s.byteAt a := by
  have hfind : Memory.find (forgetRam s).mem a = Memory.find s.mem a :=
    Memory.find_filter (fun k => decide (k < s.part.ramBase)) s.mem (decide_eq_true h)
  have hpart : (forgetRam s).part = s.part := rfl
  have hbelow : ¬ s.part.ramBase ≤ a := Nat.not_le_of_lt h
  rw [State.byteAt, State.byteAt, hfind, hpart, if_neg hbelow, if_neg hbelow]

theorem forgetCpu_devices (s : State) : KeepsDevices s (forgetCpu s) := by
  obtain ⟨r, d, e⟩ := drawRegs_eq 16 0 s
  unfold forgetCpu
  rw [e]
  constructor <;> rfl

theorem powerCut_byteAt (h : a < s.part.ramBase) : (powerCut s).byteAt a = s.byteAt a :=
  calc (powerCut s).byteAt a
    _ = (initialiseAll (forgetCpu (forgetRam s))).byteAt a := (forgetAud_spares _).same.byteAt a
    _ = (forgetCpu (forgetRam s)).byteAt a := rfl
    _ = (forgetRam s).byteAt a := (forgetCpu_devices _).byteAt a
    _ = s.byteAt a := forgetRam_byteAt h

theorem powerCut_modules (s : State) : (powerCut s).intc = Intc.reset ∧ (powerCut s).dtc = Dtc.reset ∧
    (powerCut s).bsc = Bsc.reset ∧ (powerCut s).power = Power.reset := ⟨rfl, rfl, rfl, rfl⟩

/-- Outside an external write still in progress, its cut leaves every byte (rule R552). -/
theorem cutExternalWrite_outside
    (h : ∀ w, s.bsc.extWrite = some w → a < w.cell ∨ w.cell + w.size.bytes ≤ a) :
    (cutExternalWrite s).byteAt a = s.byteAt a := by
  cases hw : s.bsc.extWrite with
  | none => rw [cutExternalWrite_none hw]
  | some w => exact cutExternalWrite_byteAt hw (h w hw)

theorem runs_deepStandby (hbus : s.bsc.released = false) (hstby : bitOf s.power.stbcr1 7 = true)
    (hmd : bitOf s.power.stbcr6 1 = false) (hready : s.standbyReady = true) :
    Runs .sleep s (fun t => t.proc = .deep ∧ t.intc = Intc.reset ∧ t.dtc = Dtc.reset ∧ t.bsc = Bsc.reset ∧
      t.power = Power.reset ∧ (∃ n, t.sr = Config.freeWord n &&& 0x3F3) ∧ ∀ a, a < s.part.ramBase →
        (∀ w, s.bsc.extWrite = some w → a < w.cell ∨ w.cell + w.size.bytes ≤ a) → t.byteAt a = s.byteAt a) := by
  obtain ⟨hintc, hdtc, hbsc, hpower⟩ := powerCut_modules (cutExternalWrite s)
  refine ⟨_, (exec_sleep_deep hbus hstby hmd).trans (if_pos hready), rfl, hintc, hdtc, hbsc, hpower,
    powerCut_sr (cutExternalWrite s), fun a ha hout => ?memory⟩
  case memory =>
    rw [← (cutExternalWrite_chip s).part] at ha
    exact (powerCut_byteAt ha).trans (cutExternalWrite_outside hout)

end

/-- Settles O31: the settings choose the mode, and its preconditions between the entry and the stop. -/
theorem sleep : Obligations.Sleep := by
  unfold Obligations.Sleep
  intro s stops
  refine ⟨exec_sleep_released, fun hbus hstby => ⟨runs_sleepMode hbus hstby, fun h => ?light⟩,
    fun hbus hstby hmd => ⟨runs_softwareStandby hbus hstby hmd, fun h => ?software⟩,
    fun hbus hstby hmd => ⟨runs_deepStandby hbus hstby hmd, fun h => ?deep⟩⟩
  case light => exact (exec_sleep_light hbus hstby).trans (if_neg (by simp [h]))
  case software => exact (exec_sleep_software hbus hstby hmd).trans (if_neg (by simpa [imp_iff_not_or] using h))
  case deep => exact (exec_sleep_deep hbus hstby hmd).trans (if_neg (by simp [h]))

end Sys2Proof.Machine
end

section
/-! PROOF. TRAPA and RTE (statements O32 and O34): the accesses of plain operands with nothing between them, the entry of an
exception over a plain stack and a plain vector, then the two instructions. -/

namespace Sys2Proof.Machine

section
variable {s t u : State} {z : Size} {a v saved : Word} {vec : Nat} {l : Option Nat}

/-! ## Plain accesses with nothing between them (rules R101, R110, R113) -/

/-- A load of a plain operand goes on with what is stored there; the UBC alone sees it. -/
theorem load_plain (ha : s.alone = true) (hp : s.plain z a = true) :
    ∃ u, OnlyUbc s u ∧ ∀ k, load z a s k = k (s.stored z a.toNat) u :=
  ⟨_, observeCpu_only false z a (s.stored z a.toNat) s, fun k => by
    rw [load, loadOr, beforeAccess_alone a _ ha, cpuRead_plain hp]⟩

theorem OnlyUbc.stored (h : OnlyUbc s u) (z : Size) (a : Nat) : u.stored z a = s.stored z a :=
  stored_congr fun b _ _ => h.same.byteAt b

/-- A longword pushed: R15 lies four lower, the longword there is the value, and what decides about further accesses is as
before. -/
structure Pushed (s u : State) (v : Word) : Prop where
  keepsRegs : s.keepsRegs u [15]
  top : u.reg 15 = s.reg 15 - 4
  sr : u.sr = s.sr
  special : s.keepsSpecial u []
  stored : u.stored .long (s.reg 15 - 4).toNat = v
  outside : s.keepsMemoryOutside u .long (s.reg 15 - 4).toNat
  samePlain : SamePlain s u
  alone : u.alone = true

/-- Where the next push goes. -/
theorem Pushed.next (h : Pushed s u v) : u.reg 15 - 4 = s.reg 15 - 8 := by
  rw [h.top, BitVec.sub_sub]
  rfl

theorem pushWrite_plain (ha : s.alone = true) (hp : s.plainRam .long a = true) (v : Word) (bad : Bool) :
    ∃ u, cpuWrite s .long a v = .ok () u ∧ ∀ k, pushWrite a v bad s k = k bad u :=
  ⟨_, cpuWrite_plain v hp, fun k => by rw [pushWrite, beforeAccess_alone a _ ha, cpuWrite_plain v hp]⟩

theorem State.plainRam_plain (h : s.plainRam z a = true) : s.plain z a = true := by
  simp only [State.plainRam, Bool.and_eq_true] at h
  exact h.1

/-- A stack write to plain RAM (rules R420, R427). -/
theorem pushEntry_plain (ha : s.alone = true) (hp : s.plainRam .long (s.reg 15 - 4) = true) (v : Word) :
    ∃ u, Pushed s u v ∧ ∀ k, pushEntry v s k = k false u := by
  have hmoved : SamePlain s (s.setReg 15 (s.reg 15 - 4)) := by constructor <;> rfl
  have hp' : (s.setReg 15 (s.reg 15 - 4)).plainRam .long (s.reg 15 - 4) = true := (hmoved.plainRam _ _).trans hp
  obtain ⟨u, hw, hk⟩ := pushWrite_plain (s := s.setReg 15 (s.reg 15 - 4)) ha hp' v false
  have hwrites := cpuWrite_ok hw
  have halign := (State.plain_iff (State.plainRam_plain hp)).1
  refine ⟨u, ?pushed, fun k => ?goesOn⟩
  case pushed =>
    exact {
      keepsRegs := fun r hr => (hwrites.core.reg r).trans (keepsRegs_setReg (fun _ _ => rfl) (by simp) _ r hr)
      top := (hwrites.core.reg 15).trans (s.reg_setReg_same 15 _)
      sr := hwrites.core.sr
      special := fun y _ => (hwrites.core.special y).trans (by cases y <;> rfl)
      stored := (cpuWrite_stored hp' hw).trans (lowPart_long v)
      outside := fun b hb => hwrites.outside b (by rwa [storeAddress_plainRam hp'])
      samePlain := hmoved.trans (cpuWrite_samePlain hp' hw)
      alone := (cpuWrite_sameAlone hp' hw).alone.trans ha }
  case goesOn =>
    rw [pushEntry, halign]
    exact hk k

/-! ## The stack and the vector of an entry (rules R420 to R427) -/

theorem region_ram_bounds {p : Part} {m : Mode} {b : Nat} (h : region p m b = .ram) : p.ramBase ≤ b ∧ b < 0xFFFFC000 := by
  unfold region at h
  split_ifs at h
  omega

/-- The two longwords of an entry's stack lie side by side. -/
theorem stack_adjacent (h : s.plainRam .long (s.reg 15 - 8) = true) :
    (s.reg 15 - 4).toNat = (s.reg 15 - 8).toNat + 4 := by
  obtain ⟨-, hhigh⟩ := region_ram_bounds (State.plainRam_region h)
  bv_omega

/-- The address of a vector. -/
def State.vectorAddress (s : State) (vec : Nat) : Word := s.vbr + BitVec.ofNat 32 (4 * vec)

/-- What `canEnter` says, part by part. -/
theorem State.canEnter_iff (h : s.canEnter vec = true) :
    s.alone = true ∧ s.plainRam .long (s.reg 15 - 4) = true ∧ s.plainRam .long (s.reg 15 - 8) = true ∧
      misaligned .long s.vbr = false ∧ s.plain .long (s.vectorAddress vec) = true ∧
      ((s.vectorAddress vec).toNat + 4 ≤ (s.reg 15 - 8).toNat ∨
        (s.reg 15 - 4).toNat + 4 ≤ (s.vectorAddress vec).toNat) := by
  simpa [State.canEnter, State.vectorAddress, and_assoc] using h

/-- The stack of an entry is written: SR and the saved pc lie on it, and of the rest of the CPU and of memory nothing differs,
SR itself left aside. -/
structure Stacked (s u : State) (saved : Word) : Prop where
  keepsRegs : s.keepsRegs u [15]
  top : u.reg 15 = s.reg 15 - 8
  special : s.keepsSpecial u []
  storedSr : u.stored .long (s.reg 15 - 4).toNat = s.sr
  storedPc : u.stored .long (s.reg 15 - 8).toNat = saved
  outside : ∀ b, b < (s.reg 15 - 8).toNat ∨ (s.reg 15 - 8).toNat + 8 ≤ b → u.byteAt b = s.byteAt b
  samePlain : SamePlain s u
  alone : u.alone = true

theorem stacked_of_pushed (hadj : (s.reg 15 - 4).toNat = (s.reg 15 - 8).toNat + 4) (h1 : Pushed s t s.sr)
    (h2 : Pushed t u saved) : Stacked s u saved := by
  have hstored := h2.stored
  have hout := h2.outside
  rw [h1.next] at hstored hout
  exact {
    keepsRegs := fun r hr => (h2.keepsRegs r hr).trans (h1.keepsRegs r hr)
    top := h2.top.trans h1.next
    special := fun y hy => (h2.special y hy).trans (h1.special y hy)
    storedSr := (stored_congr fun b hb _ => hout b (.inr (hadj ▸ hb))).trans h1.stored
    storedPc := hstored
    outside := fun b hb => by
      simp only [State.keepsMemoryOutside, Size.bytes] at hout
      have hfirst := h1.outside b
      simp only [Size.bytes] at hfirst
      rw [hout b (by omega), hfirst (by omega)]
    samePlain := h1.samePlain.trans h2.samePlain
    alone := h2.alone }

/-- The jump to the handler: the pc is the vector's longword, and the CPU's registers and memory are as they were. -/
structure Jumped (s t : State) (target : Word) : Prop where
  pc : t.pc = target
  slot : t.slot = none
  irqBlock : t.irqBlock = false
  regs : t.regs = s.regs
  sr : t.sr = s.sr
  special : s.keepsSpecial t []
  memory : s.keepsMemory t

theorem jumped_of_same (h : Same s u) (saved target : Word) :
    Jumped s (clearStale (pcTrace saved target { u with pc := target, slot := none, irqBlock := false })) target := by
  obtain ⟨q, hq⟩ := pcTrace_eq saved target { u with pc := target, slot := none, irqBlock := false }
  rw [hq]
  exact ⟨rfl, rfl, rfl, h.regs, h.sr, fun y _ => .trans (by cases y <;> rfl) (h.core.special y), h.byteAt⟩

/-- The vector read of an entry from plain memory, and the jump (rules R420, R426). -/
theorem jumpVector_plain (ha : s.alone = true) (hvbr : misaligned .long s.vbr = false)
    (hp : s.plain .long (s.vectorAddress vec) = true) (saved : Word) :
    ∃ t, Jumped s t (s.stored .long (s.vectorAddress vec).toNat) ∧ ∀ k, jumpVector vec saved s k = k t := by
  have hread := cpuRead_plain hp
  refine ⟨_, jumped_of_same (cpuRead_ok hread) saved _, fun k => ?_⟩
  rw [jumpVector, hvbr, if_neg Bool.false_ne_true, beforeAccess_alone _ _ ha, ← State.vectorAddress, hread]

/-- The new mask of an entry is of SR alone. -/
theorem Stacked.raiseMask (h : Stacked s u saved) (l : Option Nat) : Stacked s (raiseMask l u) saved := by
  cases l with
  | none => exact h
  | some level =>
    have hplain : SamePlain u (Machine.raiseMask (some level) u) := by constructor <;> rfl
    exact ⟨h.keepsRegs, h.top, h.special, h.storedSr, h.storedPc, h.outside, h.samePlain.trans hplain, h.alone⟩

theorem raiseMask_sr_congr (l : Option Nat) (h : u.sr = s.sr) : (raiseMask l u).sr = (raiseMask l s).sr := by
  cases l with
  | none => exact h
  | some level => exact congrArg (withMask · level) h

/-- The vector lies outside the stack that was written. -/
theorem Stacked.vector (hs : Stacked s u saved) (h : s.canEnter vec = true) :
    u.vectorAddress vec = s.vectorAddress vec ∧ misaligned .long u.vbr = false ∧
      u.plain .long (s.vectorAddress vec) = true ∧
      u.stored .long (s.vectorAddress vec).toNat = s.stored .long (s.vectorAddress vec).toNat := by
  obtain ⟨-, -, hsecond, hvbr, hvector, hapart⟩ := s.canEnter_iff h
  have hadj := stack_adjacent hsecond
  have hbase : u.vbr = s.vbr := hs.special .vbr List.not_mem_nil
  refine ⟨by rw [State.vectorAddress, hbase, State.vectorAddress], by rw [hbase, hvbr], by rw [hs.samePlain.plain, hvector],
    stored_congr fun b hlow hhigh => hs.outside b ?_⟩
  simp only [Size.bytes] at hhigh
  omega

theorem entered_of_jumped (hs : Stacked s u saved) (hj : Jumped u t (s.stored .long (s.vectorAddress vec).toNat)) :
    s.entered t vec saved := by
  have hstored (a : Nat) : t.stored .long a = u.stored .long a := stored_congr fun b _ _ => hj.memory b
  have hreg (r : Reg) : t.reg r = u.reg r := by rw [State.reg, hj.regs, State.reg]
  exact ⟨(hstored _).trans hs.storedSr, (hstored _).trans hs.storedPc, (hreg 15).trans hs.top, hj.pc, hj.slot, hj.irqBlock,
    fun r hr => (hreg r).trans (hs.keepsRegs r hr), fun y hy => (hj.special y hy).trans (hs.special y hy),
    fun b hb => (hj.memory b).trans (hs.outside b hb)⟩

/-- An entry over a plain stack and a plain vector, whose stack writes are no address errors (rules R420 to R426). -/
theorem enterOnce_plain (h : s.canEnter vec = true) (saved : Word) (l : Option Nat) :
    ∃ t, s.entered t vec saved ∧ t.sr = (raiseMask l s).sr ∧ ∀ k, enterOnce vec saved l s k = k false t := by
  obtain ⟨ha, hfirst, hsecond, -⟩ := s.canEnter_iff h
  obtain ⟨u1, h1, hk1⟩ := pushEntry_plain ha hfirst s.sr
  obtain ⟨u2, h2, hk2⟩ := pushEntry_plain h1.alone (by rw [h1.next, h1.samePlain.plainRam]; exact hsecond) saved
  have hs := (stacked_of_pushed (stack_adjacent hsecond) h1 h2).raiseMask l
  obtain ⟨haddress, hvbr, hvector, hstored⟩ := hs.vector h
  rw [← haddress] at hvector
  obtain ⟨t, hj, hk3⟩ := jumpVector_plain hs.alone hvbr hvector saved
  rw [haddress, hstored] at hj
  refine ⟨t, entered_of_jumped hs hj, hj.sr.trans (raiseMask_sr_congr l (h2.sr.trans h1.sr)), fun k => ?_⟩
  rw [enterOnce, hk1, hk2, hk3]
  rfl

theorem enter_plain (h : s.canEnter vec = true) (saved : Word) (l : Option Nat) :
    ∃ t, enter vec saved l s = .next t ∧ s.entered t vec saved ∧ t.sr = (raiseMask l s).sr := by
  obtain ⟨t, ht, hsr, hk⟩ := enterOnce_plain h saved l
  exact ⟨t, hk _, ht, hsr⟩

/-- TRAPA's entry is the plain one, in a UBC without the instruction's break requests before it and after it. -/
theorem trap_plain (h : s.canEnter vec = true) :
    ∃ t, trap vec s = .next t ∧ s.entered t vec (s.pc + 2) ∧ t.sr = s.sr := by
  obtain ⟨t, ht, hentered, hsr⟩ := enter_plain (s := ubcCancel true s) h (s.pc + 2) none
  exact ⟨ubcCancel true t, congrArg (mapNext (ubcCancel true)) ht, hentered, hsr⟩

/-! ## The return (rules R383, R423) -/

/-- Nothing comes between the two reads of RTE, and of both the UBC alone sees. -/
theorem returnFromException_plain (ha : s.alone = true) (hpc : s.plain .long (s.reg 15) = true)
    (hsr : s.plain .long (s.reg 15 + 4) = true) :
    ∃ u, OnlyUbc s u ∧ returnFromException s =
      delayedBranch (s.stored .long (s.reg 15).toNat) s.pr true
        ((u.setReg 15 (s.reg 15 + 8)).writeSr (s.stored .long (s.reg 15 + 4).toNat)) := by
  obtain ⟨u1, h1, hk1⟩ := load_plain ha hpc
  have hr15 : u1.reg 15 = s.reg 15 := h1.same.reg 15
  obtain ⟨u2, h2, hk2⟩ := load_plain (h1.sameAlone.alone.trans ha) ((h1.samePlain.plain _ _).trans hsr)
  have h := h1.trans h2
  refine ⟨u2, h, ?_⟩
  rw [returnFromException, hk1, hr15, hk2, h1.stored, h.same.reg, h.same.pr]

end

/-- Settles O32: outside a slot TRAPA is an entry over a plain stack and a plain vector. (The name `trap` is an operation's of
the model.) -/
theorem trapEntry : Obligations.Trap := by
  unfold Obligations.Trap
  intro s imm hslot h
  obtain ⟨t, ht, hentered⟩ := trap_plain h
  exact ⟨t, (notInSlot_none _ hslot).trans ht, hentered⟩

/-- Settles O34: outside a slot RTE is two plain reads, and then a delayed branch with R15 and SR written. (The name
`returnFromException` is an operation's of the model.) -/
theorem returnFromExceptionRestores : Obligations.ReturnFromException := by
  unfold Obligations.ReturnFromException
  intro s hslot hrun ha hpc hsr
  obtain ⟨u, hu, hexec⟩ := returnFromException_plain ha hpc hsr
  refine ⟨_, (exec_rte hslot).trans hexec, ?_⟩
  obtain ⟨c, d, rfl⟩ := hu
  exact ⟨rfl, rfl, rfl, State.reg_setReg_same _ _ _, rfl, keepsRegs_setReg (fun _ _ => rfl) (by simp) _,
    fun y _ => by cases y <;> rfl, fun _ => rfl⟩

end Sys2Proof.Machine
end

section
/-! PROOF. The boundary with requests (statements O39 and O40), a trap and its return (O35), the reset sequence (O36), and the
entry of an exception over an aligned and a misaligned stack, with the fetch address error (O33). -/

namespace Sys2Proof.Machine

/-! ## What a boundary accepts (rules R432, R433, R436, R484) -/

section
variable {s u : State} {w : Half} {i : Instr} {v l : Nat}

/-- What is selected among the sources is one of them. -/
theorem selectSource_mem {sources : List IntSource} (h : selectSource s sources = some (v, l)) :
    ∃ r ∈ sources, r.vec = v := by
  induction sources generalizing v l with
  | nil => cases h
  | cons r rest ih =>
    have hrest {v l : Nat} (h : selectSource s rest = some (v, l)) : ∃ x ∈ r :: rest, x.vec = v := by
      obtain ⟨x, hx, hvec⟩ := ih h
      exact ⟨x, List.mem_cons_of_mem r hx, hvec⟩
    have hhead {l l' : Nat} (h : some (r.vec, l') = some (v, l)) : ∃ x ∈ r :: rest, x.vec = v :=
      ⟨r, List.mem_cons_self, congrArg Prod.fst (Option.some.inj h)⟩
    unfold selectSource at h
    dsimp only at h
    split at h
    · split at h
      · exact hhead h
      · next hbest =>
        split at h
        · exact hrest (hbest.trans h)
        · exact hhead h
    · exact hrest h

/-- Vector 12 is the user break's alone: no source of table 6.3 has it. -/
theorem intSources_vec_ne_break : ∀ r ∈ intSources, r.vec ≠ 12 := by decide

theorem intcSelect_break (h : (s.ubc.live.pending && decide (s.mask < 15)) = true) : intcSelect s = some (12, 15) := by
  rw [intcSelect, if_pos h]

/-- Without a break that the mask lets through, what is selected is no user break. -/
theorem intcSelect_ne_break (h : ¬ (s.ubc.live.pending && decide (s.mask < 15)) = true)
    (hselect : intcSelect s = some (v, l)) : v ≠ 12 := by
  rw [intcSelect, if_neg h] at hselect
  split at hselect
  · cases hselect
    decide
  · split at hselect
    · cases hselect
    · next hsource =>
      split at hselect
      · cases hselect
        obtain ⟨r, hr, rfl⟩ := selectSource_mem hsource
        exact intSources_vec_ne_break r hr
      · cases hselect

/-- After an interrupt-disabling instruction no request is accepted, a DTC address error aside. -/
theorem acceptance_blocked (hblock : s.irqBlock = true) (hdtc : s.dtc.addressError = false) : acceptance s = none := by
  simp [acceptance, breakTakeable, hblock, hdtc]

/-- Where interrupts are acceptable the selected one is accepted: before a DTC address error a user break alone. -/
theorem acceptance_selected (hblock : s.irqBlock = false) (hselect : intcSelect s = some (v, l))
    (h : v = 12 ∨ s.dtc.addressError = false) : acceptance s = some (v, some (min l 15), acknowledge v s) := by
  by_cases hbreak : (s.ubc.live.pending && decide (s.mask < 15)) = true
  · rw [intcSelect_break hbreak] at hselect
    cases hselect
    simp [acceptance, breakTakeable, hblock, hbreak]
  · have hdtc := h.resolve_left (intcSelect_ne_break hbreak hselect)
    simp [acceptance, breakTakeable, hblock, hbreak, hdtc, hselect]

/-- A DTC address error comes first where no user break can be taken. -/
theorem acceptance_dtcError (hdtc : s.dtc.addressError = true)
    (h : s.irqBlock = true ∨ s.ubc.live.pending = false ∨ s.mask = 15) :
    acceptance s = some (10, none, { s with dtc := { s.dtc with addressError := false } }) := by
  have hbreak : (s.ubc.live.pending && breakTakeable s) = false := by
    rcases h with hblock | hpending | hmask
    · simp [breakTakeable, hblock]
    · simp [hpending]
    · simp [breakTakeable, hmask]
  simp [acceptance, hbreak, hdtc]

/-- The CPU and memory are as they were when the boundary's instruction has been fetched. -/
theorem fetchHalf_atBoundary_same (hf : fetchHalf s.atBoundary s.pc = .ok w u) : Same s.atCpuStep u :=
  s.atBoundary_only.same.trans (fetchHalf_ok_same hf)

/-- The fetch of the boundary's instruction requests no break. -/
theorem fetchHalf_atBoundary_pending (hf : fetchHalf s.atBoundary s.pc = .ok w u) :
    u.ubc.live.pending = s.atBoundary.ubc.live.pending := by
  obtain ⟨_, _, _, rfl, keeps, -⟩ := fetchHalf_ok hf
  exact keeps.pending

/-- The step at a boundary that accepts an exception is its entry, with the instruction's address saved. -/
theorem step_accepts {t : State} {newI : Option Nat} (h : s.cpuNext = true) (hslot : s.slot = none)
    (hf : fetchHalf s.atBoundary s.pc = .ok w u) (hd : decode w = .ok i) (ha : acceptance u = some (v, newI, t)) :
    step s = mapNext settle (enter v s.pc newI t) := by
  have hpc : t.pc = s.pc := (acceptance_same ha).pc.trans (fetchHalf_atBoundary_same hf).pc
  rw [step_boundary h hslot hf hd, ha, ← hpc]
  rfl

end

/-- Settles O39: with the block set nothing is accepted, and the decoded instruction runs. -/
theorem interruptsBlocked : Obligations.InterruptsBlocked := by
  unfold Obligations.InterruptsBlocked
  intro s u w i h hslot hblock hdtc hf hd
  have hnone : acceptance u = none :=
    acceptance_blocked ((fetchHalf_atBoundary_same hf).irqBlock.trans hblock)
      ((congrArg Dtc.addressError (fetchHalf_atBoundary_dtc hf)).trans hdtc)
  rw [step_boundary h hslot hf hd, hnone]
  exact mapNext_mapNext _ _ _

/-- Settles O40: the fetch changes nothing that the acceptance looks at, and the accepted exception is entered. -/
theorem interruptAccepted : Obligations.InterruptAccepted := by
  unfold Obligations.InterruptAccepted
  intro s u w i h hslot hf hd
  have hsame := fetchHalf_atBoundary_same hf
  have hblock : u.irqBlock = s.irqBlock := hsame.irqBlock
  have hmask : u.mask = s.mask := by rw [State.mask, hsame.sr]; rfl
  have hdtc := fetchHalf_atBoundary_dtc hf
  refine ⟨fun v l hclear hselect hfirst => ?selected, fun herror hbreak => ?dtcError⟩
  case selected =>
    refine step_accepts h hslot hf hd (acceptance_selected (hblock.trans hclear) ?_ (by rwa [hdtc]))
    exact (intcSelect_fetch (fetchHalf_ok hf)).trans hselect
  case dtcError =>
    refine step_accepts h hslot hf hd (acceptance_dtcError (by rwa [hdtc]) ?_)
    rwa [hblock, hmask, fetchHalf_atBoundary_pending hf]

/-! ## A trap and the return from it -/

/-- Settles O35: RTE reads back what TRAPA's entry has stored. -/
theorem trapThenReturn : Obligations.TrapThenReturn := by
  unfold Obligations.TrapThenReturn
  intro s t h imm hslot hsr hcan htrap hhslot hrun halone hreg hmem hplain hplain4
  obtain ⟨t', hexec, ⟨hstoredSr, hstoredPc, htop, -⟩, -⟩ := trapEntry s imm hslot hcan
  obtain rfl : t = t' := Host.Outcome.next.inj (htrap.symm.trans hexec)
  obtain ⟨r, hr, hrslot, -, hrsr, hrtop, -⟩ := returnFromExceptionRestores h hhslot hrun halone hplain hplain4
  have hstored (a : Nat) : h.stored .long a = t.stored .long a := stored_congr fun b _ _ => hmem b
  have hbase : h.reg 15 = s.reg 15 - 8 := hreg.trans htop
  have hsecond : h.reg 15 + 4 = s.reg 15 - 4 := by rw [hbase]; bv_omega
  refine ⟨r, hr, ?sr, ?stack, _, hrslot, ?target⟩
  case sr =>
    rw [hrsr, hsecond, hstored, hstoredSr]
    exact writeSr_of_srOk (of_decide_eq_true hsr)
  case stack =>
    rw [hrtop, hbase]
    exact BitVec.sub_add_cancel _ _
  case target =>
    change h.stored .long (h.reg 15).toNat = s.pc + 2
    rw [hbase, hstored, hstoredPc]

/-! ## The reset sequence (rule R414) -/

section
variable {s u w : State} {z : Size} {a v : Word}

theorem OnlyFetch.sameAlone (h : OnlyFetch s u) : SameAlone s u := by
  obtain ⟨_, _, _, rfl, -, -⟩ := h
  constructor <;> rfl

/-- A read that reaches no register changes no more than a fetch does. -/
theorem busRead_memory (m : Master) (f : Bool) (h : s.regionOf a.toNat ≠ .peripheral) :
    (busRead m f s z a).Lands (OnlyFetch s) := by
  unfold busRead
  split
  · exact OnlyFetch.refl s
  · split
    · exact OnlyFetch.refl s
    · trivial
    · next hr => exact absurd hr h
    · exact romRead_fetch _ _ _ _
    · exact ramRead_fetch _ _ _ _
    · exact externalRead_fetch _ _ _ _ _
    · exact externalRead_fetch _ _ _ _ _

/-- A read of memory lets nothing new come between the CPU's accesses. -/
theorem cpuRead_memory_sameAlone (h : s.regionOf a.toNat ≠ .peripheral) (hr : cpuRead s z a = .ok v u) :
    SameAlone s u := by
  have hbus := busRead_memory .cpu false h (z := z)
  unfold cpuRead at hr
  split at hr
  · next x t e =>
    rw [e] at hbus
    cases hr
    exact (OnlyFetch.sameAlone hbus).trans ((observeCpu_only _ _ _ _ _).trans (ubcReadBack_only _ _)).sameAlone
  · cases hr
  · cases hr

/-- The vectors of a reset are no registers. -/
theorem resetVector_memory (s : State) (k : ResetKind) :
    s.regionOf (BitVec.ofNat 32 (4 * k.vector)).toNat ≠ .peripheral := by
  have hlow : (BitVec.ofNat 32 (4 * k.vector)).toNat < 0xFFFFC000 := by cases k <;> decide
  exact fun h => absurd (region_peripheral_iff.1 h) (by omega)

theorem resetRead_ok {n : Nat} (ha : s.alone = true) (h : cpuRead s .long (BitVec.ofNat 32 n) = .ok v u)
    (k : Word → State → Result) : resetRead n s k = k v u := by
  rw [resetRead, beforeAccess_alone _ _ ha, h]

/-- The state that a reset sequence with these vectors starts program execution in. -/
def State.started (s : State) (newPc newSp : Word) : State :=
  { s with vbr := 0, sr := withMask s.sr 15 &&& 0x3F3, pc := newPc, irqBlock := false, slot := none,
           proc := .run }.setReg 15 newSp

theorem resetSequence_ok {k : ResetKind} {newPc newSp : Word} (ha : s.alone = true)
    (hpc : cpuRead s .long (BitVec.ofNat 32 (4 * k.vector)) = .ok newPc u)
    (hsp : cpuRead u .long (BitVec.ofNat 32 (4 * k.vector + 4)) = .ok newSp w) :
    resetSequence k s = .next (w.started newPc newSp) := by
  have hu : u.alone = true := (cpuRead_memory_sameAlone (resetVector_memory s k) hpc).alone.trans ha
  rw [resetSequence, resetRead_ok ha hpc, resetRead_ok hu hsp]
  rfl

/-- With the bus its own, the CPU's step before the vectors are read is the reset sequence. -/
theorem step_resetEntry {k : ResetKind} (hturn : s.cpuTurn = true) (hproc : s.proc = .resetEntry k)
    (hbus : s.bsc.released = false) : step s = mapNext settle (resetSequence k s.atCpuStep) := by
  obtain ⟨-, -, -, ha⟩ := s.cpuTurn_iff hturn
  have hp : s.atCpuStep.proc = .resetEntry k := hproc
  have hr : s.atCpuStep.bsc.released = false := hbus
  rw [step_cpu hturn]
  simp [cpuStep, clearRaces_alone (State.atCpuStep_alone ha), hp, hr]

/-- SR's reserved bits lie outside the mask. -/
theorem extractMask_implemented (v : Word) : (v &&& 0x3F3).extractLsb' 4 4 = v.extractLsb' 4 4 := by
  rw [BitVec.extractLsb'_and]
  exact BitVec.and_allOnes

theorem started_mask (s : State) (newPc newSp : Word) : (s.started newPc newSp).mask = 15 :=
  (congrArg BitVec.toNat (extractMask_implemented (withMask s.sr 15))).trans (mask_withMask s 15)

theorem settle_byteAt (s : State) (b : Nat) : (settle s).byteAt b = s.byteAt b :=
  (settleBus_byteAt _ b).trans
    ((((clearRaces_same s).trans (same_windows _ _)).trans (refreshQueue_same _)).byteAt b)

end

/-- Settles O36: two reads with nothing between them, and the state they start. (The name `resetSequence` is an operation's of
the model.) -/
theorem resetSequenceStarts : Obligations.ResetSequence := by
  unfold Obligations.ResetSequence
  intro s u w k newPc newSp hturn hproc hbus hpc hsp
  obtain ⟨-, -, -, ha⟩ := s.cpuTurn_iff hturn
  have hseq := resetSequence_ok (State.atCpuStep_alone ha) hpc hsp
  have hw : Same s.atCpuStep w := (cpuRead_ok hpc).trans (cpuRead_ok hsp)
  have hc := settle_core (w.started newPc newSp)
  refine ⟨settle (w.started newPc newSp), by rw [step_resetEntry hturn hproc hbus, hseq]; rfl, hc.pc,
    (hc.reg 15).trans (State.reg_setReg_same _ 15 newSp), hc.vbr, ?mask, ?reserved, hc.proc, hc.slot, hc.irqBlock,
    fun r hr => ?regs, fun x hx => ?special, fun b => ?memory⟩
  case mask =>
    rw [State.mask, hc.sr]
    exact started_mask w newPc newSp
  case reserved =>
    rw [State.srOk, hc.sr]
    exact decide_eq_true (srOk_write _)
  case regs =>
    rw [hc.reg, State.started, State.reg_setReg_ne _ _ (by simpa using hr)]
    exact hw.reg r
  case special =>
    have hkeep : (w.started newPc newSp).special x = w.special x := by
      cases x with
      | vbr => exact absurd (List.mem_singleton_self _) hx
      | gbr | mach | macl | pr => rfl
    exact (hc.special x).trans (hkeep.trans (hw.core.special x))
  case memory => exact (settle_byteAt _ b).trans (hw.byteAt b)

/-! ## The stack of an entry, aligned or not (rules R420, R445, R446) -/

section
variable {s t u x : State} {v saved : Word} {vec n m k b : Nat} {l : Option Nat}

theorem toNat_roundDown (a : Word) : (a &&& 0xFFFFFFFC).toNat = 4 * (a.toNat / 4) := by
  rw [mask_eq_shift, BitVec.toNat_shiftLeft, BitVec.toNat_ushiftRight, Nat.shiftLeft_eq, Nat.shiftRight_eq_div_pow]
  omega

theorem stackSlot_toNat (s : State) (k : Nat) :
    (s.stackSlot k).toNat = 4 * ((s.reg 15 - BitVec.ofNat 32 (4 * k)).toNat / 4) :=
  toNat_roundDown _

/-- Moving by longwords keeps the alignment. -/
theorem misaligned_sub_longs (a : Word) (n : Nat) :
    misaligned .long (a - BitVec.ofNat 32 (4 * n)) = misaligned .long a := by
  have hmod : (a - BitVec.ofNat 32 (4 * n)).toNat % 4 = a.toNat % 4 := by bv_omega
  rw [misaligned, misaligned, Size.bytes, hmod]

/-- A multiple of 4 is its own rounded address. -/
theorem roundDown_aligned {a : Word} (h : misaligned .long a = false) : a &&& 0xFFFFFFFC = a := by
  have hmod : a.toNat % 4 = 0 := not_not.1 (of_decide_eq_false h)
  apply BitVec.eq_of_toNat_eq
  rw [toNat_roundDown]
  omega

/-- From a first slot in RAM the next ones follow without a gap. -/
theorem stackSlot_adjacent (h : s.plainRam .long (s.stackSlot 1) = true) (hk : 1 ≤ k) (hk4 : k ≤ 4) :
    (s.stackSlot k).toNat + 4 * k = (s.stackSlot 1).toNat + 4 := by
  obtain ⟨hbase, hhigh⟩ := region_ram_bounds (State.plainRam_region h)
  have hlow := (ramBase_bounds s.part).1
  rw [stackSlot_toNat] at hbase hhigh ⊢
  rw [stackSlot_toNat]
  bv_omega

/-- What lies outside the slots as a whole lies outside each of them. -/
theorem outside_slots (h : s.plainRam .long (s.stackSlot 1) = true) (hn : n ≤ 4)
    (hb : b < (s.stackSlot n).toNat ∨ (s.stackSlot 1).toNat + 4 ≤ b) (hk : 1 ≤ k) (hkn : k ≤ n) :
    b < (s.stackSlot k).toNat ∨ (s.stackSlot k).toNat + 4 ≤ b := by
  have hat := stackSlot_adjacent h hk (hkn.trans hn)
  have hlast := stackSlot_adjacent h (hk.trans hkn) hn
  omega

theorem State.stackTakes_iff : s.stackTakes n = true ↔
    s.alone = true ∧ ∀ k, k < n → s.plainRam .long (s.stackSlot (k + 1)) = true := by
  simp [State.stackTakes]

/-- `n` longwords are pushed, R15 aligned or not: of the CPU R15 alone differs, SR left aside, of memory the slots alone, and
what decides about further accesses is as before. -/
structure PushedBelow (s u : State) (n : Nat) : Prop where
  keepsRegs : s.keepsRegs u [15]
  top : u.reg 15 = s.reg 15 - BitVec.ofNat 32 (4 * n)
  special : s.keepsSpecial u []
  outside : ∀ b, (∀ k, 1 ≤ k → k ≤ n → b < (s.stackSlot k).toNat ∨ (s.stackSlot k).toNat + 4 ≤ b) →
    u.byteAt b = s.byteAt b
  samePlain : SamePlain s u
  alone : u.alone = true

/-- The slots count on from where R15 is now. -/
theorem PushedBelow.stackSlot (h : PushedBelow s u n) (k : Nat) : u.stackSlot k = s.stackSlot (n + k) := by
  rw [State.stackSlot, State.stackSlot, h.top, BitVec.sub_sub, BitVec.ofNat_add_ofNat, Nat.mul_add]

theorem PushedBelow.misaligned (h : PushedBelow s u n) : misaligned .long (u.reg 15) = misaligned .long (s.reg 15) := by
  rw [h.top, misaligned_sub_longs]

theorem PushedBelow.trans (h : PushedBelow s t m) (h' : PushedBelow t u n) : PushedBelow s u (m + n) where
  keepsRegs r hr := (h'.keepsRegs r hr).trans (h.keepsRegs r hr)
  top := by rw [h'.top, h.top, BitVec.sub_sub, BitVec.ofNat_add_ofNat, Nat.mul_add]
  special y hy := (h'.special y hy).trans (h.special y hy)
  outside b hb := by
    have hlower : u.byteAt b = t.byteAt b := h'.outside b fun k hk hkn => by
      rw [h.stackSlot]
      exact hb (m + k) (by omega) (by omega)
    exact hlower.trans (h.outside b fun k hk hkm => hb k hk (by omega))
  samePlain := h.samePlain.trans h'.samePlain
  alone := h'.alone

theorem PushedBelow.stackTakes (h : PushedBelow s u m) (hs : s.stackTakes (m + n) = true) : u.stackTakes n = true := by
  obtain ⟨-, hslots⟩ := State.stackTakes_iff.1 hs
  refine State.stackTakes_iff.2 ⟨h.alone, fun k hk => ?_⟩
  rw [h.samePlain.plainRam, h.stackSlot]
  exact hslots (m + k) (by omega)

/-- The write at the first slot, from a state with R15 moved down, is one longword pushed. -/
theorem pushedBelow_of_write (ha : s.alone = true) (hp : s.plainRam .long (s.stackSlot 1) = true)
    (hx : OnlyUbc (s.setReg 15 (s.reg 15 - 4)) x) (hw : cpuWrite x .long (s.stackSlot 1) v = .ok () u) :
    PushedBelow s u 1 ∧ u.sr = s.sr := by
  have hmoved : SamePlain s (s.setReg 15 (s.reg 15 - 4)) := by constructor <;> rfl
  have hplain := hmoved.trans hx.samePlain
  have hpx := (hplain.plainRam _ _).trans hp
  have hwrites := cpuWrite_ok hw
  have hcore := hx.same.core.trans hwrites.core
  refine ⟨?pushed, hcore.sr⟩
  exact {
    keepsRegs := fun r hr => (hcore.reg r).trans (s.reg_setReg_ne _ (by simpa using hr))
    top := (hcore.reg 15).trans (s.reg_setReg_same 15 _)
    special := fun y _ => (hcore.special y).trans (by cases y <;> rfl)
    outside := fun b hb => by
      have hout := hwrites.outside b
      rw [storeAddress_plainRam hpx] at hout
      exact (hout (hb 1 le_rfl le_rfl)).trans (hx.same.byteAt b)
    samePlain := hplain.trans (cpuWrite_samePlain hpx hw)
    alone := (hx.sameAlone.trans (cpuWrite_sameAlone hpx hw)).alone.trans ha }

/-- One stack write of an entry to a plain slot; whether R15 was misaligned goes on. -/
theorem pushEntry_takes (ha : s.alone = true) (hp : s.plainRam .long (s.stackSlot 1) = true) (v : Word) :
    ∃ u, PushedBelow s u 1 ∧ u.sr = s.sr ∧ ∀ k, pushEntry v s k = k (misaligned .long (s.reg 15)) u := by
  have hmoved : SamePlain s (s.setReg 15 (s.reg 15 - 4)) := by constructor <;> rfl
  have halign : misaligned .long (s.reg 15 - 4) = misaligned .long (s.reg 15) := misaligned_sub_longs _ 1
  have hslot : s.stackSlot 1 = (s.reg 15 - 4) &&& 0xFFFFFFFC := rfl
  cases hm : misaligned .long (s.reg 15) with
  | true =>
    have hdraw := drawWord_only (s.setReg 15 (s.reg 15 - 4))
    obtain ⟨u, hw, hk⟩ := pushWrite_plain (hdraw.sameAlone.alone.trans ha)
      (((hmoved.trans hdraw.samePlain).plainRam _ _).trans hp) (s.setReg 15 (s.reg 15 - 4)).drawWord.1 true
    obtain ⟨hpushed, hsr⟩ := pushedBelow_of_write ha hp hdraw hw
    refine ⟨u, hpushed, hsr, fun k => ?_⟩
    rw [pushEntry, halign, hm]
    exact hk k
  | false =>
    obtain ⟨u, hw, hk⟩ := pushWrite_plain (s := s.setReg 15 (s.reg 15 - 4)) ha ((hmoved.plainRam _ _).trans hp) v false
    obtain ⟨hpushed, hsr⟩ := pushedBelow_of_write ha hp (OnlyUbc.refl _) hw
    refine ⟨u, hpushed, hsr, fun k => ?_⟩
    rw [hslot, roundDown_aligned (halign.trans hm)] at hk
    rw [pushEntry, halign, hm]
    exact hk k

/-- The new mask of an entry is of SR alone. -/
theorem PushedBelow.raiseMask (h : PushedBelow s u n) (l : Option Nat) : PushedBelow s (raiseMask l u) n := by
  cases l with
  | none => exact h
  | some level =>
    have hplain : SamePlain u (Machine.raiseMask (some level) u) := by constructor <;> rfl
    exact ⟨h.keepsRegs, h.top, h.special, h.outside, h.samePlain.trans hplain, h.alone⟩

/-- An entry comes to its vector with two longwords pushed and the new mask set. -/
theorem enterOnce_takes (h : s.stackTakes 2 = true) (saved : Word) (l : Option Nat) :
    ∃ u, PushedBelow s u 2 ∧ u.sr = (raiseMask l s).sr ∧
      ∀ vec k, enterOnce vec saved l s k = jumpVector vec saved u (k (misaligned .long (s.reg 15))) := by
  obtain ⟨ha, hslots⟩ := State.stackTakes_iff.1 h
  obtain ⟨u1, h1, hsr1, hk1⟩ := pushEntry_takes ha (hslots 0 (by decide)) s.sr
  obtain ⟨ha1, hslots1⟩ := State.stackTakes_iff.1 (h1.stackTakes (n := 1) h)
  obtain ⟨u2, h2, hsr2, hk2⟩ := pushEntry_takes ha1 (hslots1 0 (by decide)) saved
  refine ⟨raiseMask l u2, (h1.trans h2).raiseMask l, raiseMask_sr_congr l (hsr2.trans hsr1), fun vec k => ?_⟩
  rw [enterOnce, hk1, hk2, h1.misaligned, Bool.or_self]

/-- With a misaligned VBR an entry stops after its stack writes (rule R447). -/
theorem enterOnce_vbrMisaligned (h : s.stackTakes 2 = true) (hvbr : misaligned .long s.vbr = true)
    (k : Bool → State → Result) : enterOnce vec saved l s k = .fault .vbrMisaligned := by
  obtain ⟨u, hu, -, hk⟩ := enterOnce_takes h saved l
  have hbase : u.vbr = s.vbr := hu.special .vbr List.not_mem_nil
  rw [hk, jumpVector, hbase, if_pos hvbr]

/-! ## The entry at a misaligned R15 (rule R446) -/

/-- What `canEnterAstray` says, part by part. -/
theorem State.canEnterAstray_iff : s.canEnterAstray n vec = true ↔
    misaligned .long (s.reg 15) = true ∧ s.stackTakes n = true ∧ misaligned .long s.vbr = false ∧
      s.plain .long (s.vectorAddress vec) = true ∧
      ((s.vectorAddress vec).toNat + 4 ≤ (s.stackSlot n).toNat ∨
        (s.stackSlot 1).toNat + 4 ≤ (s.vectorAddress vec).toNat) := by
  simp [State.canEnterAstray, State.vectorAddress, and_assoc]

/-- The vector of an entry lies outside the slots it writes. -/
theorem PushedBelow.vector_stored (hu : PushedBelow s u n) (h : s.canEnterAstray m vec = true) (hn : 1 ≤ n) (hnm : n ≤ m)
    (hm : m ≤ 4) :
    u.stored .long (s.vectorAddress vec).toNat = s.stored .long (s.vectorAddress vec).toNat := by
  obtain ⟨-, htakes, -, -, hapart⟩ := State.canEnterAstray_iff.1 h
  have hfirst := (State.stackTakes_iff.1 htakes).2 0 (by omega)
  refine stored_congr fun b hlow hhigh => hu.outside b fun k hk hkn => ?_
  simp only [Size.bytes] at hhigh
  exact outside_slots hfirst hm (by omega) hk (hkn.trans hnm)

theorem PushedBelow.vectorAddress (hu : PushedBelow s u n) (vec : Nat) : u.vectorAddress vec = s.vectorAddress vec := by
  rw [State.vectorAddress, State.vectorAddress, show u.vbr = s.vbr from hu.special .vbr List.not_mem_nil]

/-- Where four longwords fit, the last two fit after the first two. -/
theorem PushedBelow.canEnterAstray (hu : PushedBelow s u 2) (h : s.canEnterAstray 4 vec = true) :
    u.canEnterAstray 2 vec = true := by
  obtain ⟨hmis, htakes, hvbr, hplain, hapart⟩ := State.canEnterAstray_iff.1 h
  have hfirst := (State.stackTakes_iff.1 htakes).2 0 (by decide)
  have hthird := stackSlot_adjacent (k := 3) hfirst (by decide) (by decide)
  have hbase : u.vbr = s.vbr := hu.special .vbr List.not_mem_nil
  refine State.canEnterAstray_iff.2 ⟨hu.misaligned.trans hmis, hu.stackTakes htakes, by rwa [hbase], ?_, ?_⟩
  · rw [hu.samePlain.plain, hu.vectorAddress, hplain]
  · rw [hu.vectorAddress, show u.stackSlot 2 = s.stackSlot 4 from hu.stackSlot 2,
      show u.stackSlot 1 = s.stackSlot 3 from hu.stackSlot 1]
    omega

theorem State.canEnterAstray_two (h : s.canEnterAstray 4 vec = true) : s.canEnterAstray 2 vec = true := by
  obtain ⟨hmis, htakes, hvbr, hplain, hapart⟩ := State.canEnterAstray_iff.1 h
  obtain ⟨ha, hslots⟩ := State.stackTakes_iff.1 htakes
  have hsecond := stackSlot_adjacent (k := 2) (hslots 0 (by decide)) (by decide) (by decide)
  have hfourth := stackSlot_adjacent (k := 4) (hslots 0 (by decide)) (by decide) (by decide)
  exact State.canEnterAstray_iff.2
    ⟨hmis, State.stackTakes_iff.2 ⟨ha, fun k hk => hslots k (by omega)⟩, hvbr, hplain, by omega⟩

/-- A vector read from plain memory and the jump change nothing that decides about further accesses. -/
theorem jumpVector_same (ha : s.alone = true) (hvbr : misaligned .long s.vbr = false)
    (hp : s.plain .long (s.vectorAddress vec) = true) (h : jumpVector vec saved s .next = .next t) :
    SamePlain s t ∧ SameAlone s t := by
  have hread := (cpuRead_samePlain hp (cpuRead_plain hp)).2
  rw [jumpVector, hvbr, if_neg Bool.false_ne_true, beforeAccess_alone _ _ ha, ← State.vectorAddress,
    cpuRead_plain hp] at h
  obtain rfl := Host.Outcome.next.inj h
  generalize observeCpu _ _ _ _ _ = u at hread
  obtain ⟨q, hq⟩ := pcTrace_eq saved (s.stored .long (s.vectorAddress vec).toNat)
    { u with pc := s.stored .long (s.vectorAddress vec).toNat, slot := none, irqBlock := false }
  rw [hq]
  exact ⟨hread.samePlain.trans (by constructor <;> rfl), hread.sameAlone.trans (by constructor <;> rfl)⟩

/-- The jump of an entry after its stack writes. -/
theorem PushedBelow.jumped (hu : PushedBelow s u n) (hj : Jumped u t v) (hp : SamePlain u t) (ha : SameAlone u t) :
    PushedBelow s t n := by
  have hreg (r : Reg) : t.reg r = u.reg r := by rw [State.reg, hj.regs, State.reg]
  exact ⟨fun r hr => (hreg r).trans (hu.keepsRegs r hr), (hreg 15).trans hu.top,
    fun y hy => (hj.special y hy).trans (hu.special y hy), fun b hb => (hj.memory b).trans (hu.outside b hb),
    hu.samePlain.trans hp, ha.alone.trans hu.alone⟩

/-- The handler of a vector is next, after `n` longwords pushed. -/
structure EnteredBelow (s t : State) (n vec : Nat) : Prop where
  pushed : PushedBelow s t n
  pc : t.pc = s.stored .long (s.vectorAddress vec).toNat
  slot : t.slot = none
  irqBlock : t.irqBlock = false

/-- An entry at a misaligned R15 writes two slots, jumps to its handler, and goes on with the error. -/
theorem enterOnce_astray (h : s.canEnterAstray 2 vec = true) (saved : Word) (l : Option Nat) :
    ∃ t, EnteredBelow s t 2 vec ∧ t.sr = (raiseMask l s).sr ∧ ∀ k, enterOnce vec saved l s k = k true t := by
  obtain ⟨hmis, htakes, hvbr, hplain, -⟩ := State.canEnterAstray_iff.1 h
  obtain ⟨u, hu, hsr, hk⟩ := enterOnce_takes htakes saved l
  have hbase : u.vbr = s.vbr := hu.special .vbr List.not_mem_nil
  have hplainU : u.plain .long (u.vectorAddress vec) = true := by rw [hu.samePlain.plain, hu.vectorAddress, hplain]
  obtain ⟨t, hj, ht⟩ := jumpVector_plain hu.alone (by rwa [hbase]) hplainU saved
  obtain ⟨hp, ha⟩ := jumpVector_same hu.alone (by rwa [hbase]) hplainU (ht .next)
  have hpc : t.pc = s.stored .long (s.vectorAddress vec).toNat := by
    rw [hj.pc, hu.vectorAddress, hu.vector_stored h (by decide) le_rfl (by decide)]
  refine ⟨t, ⟨hu.jumped hj hp ha, hpc, hj.slot, hj.irqBlock⟩, hj.sr.trans hsr, fun k => ?_⟩
  rw [hk, hmis, ht]

theorem enterAddressError_astray (h : s.canEnterAstray 2 9 = true) (saved : Word) :
    ∃ t, enterAddressError saved s = .next t ∧ EnteredBelow s t 2 9 ∧ t.sr = s.sr := by
  obtain ⟨t, ht, hsr, hk⟩ := enterOnce_astray h saved none
  exact ⟨t, hk _, ht, hsr⟩

/-- The entry of another vector is followed by that of vector 9, which writes the next two slots. -/
theorem enter_astray (h : s.canEnterAstray 4 vec = true) (h9 : s.canEnterAstray 4 9 = true) (saved : Word)
    (l : Option Nat) :
    ∃ t, enter vec saved l s = .next t ∧ EnteredBelow s t 4 9 ∧ t.sr = (raiseMask l s).sr := by
  obtain ⟨u, hu, hsru, hk⟩ := enterOnce_astray (State.canEnterAstray_two h) saved l
  obtain ⟨t, hexec, ht, hsr⟩ := enterAddressError_astray (hu.pushed.canEnterAstray h9) u.pc
  have hpc : t.pc = s.stored .long (s.vectorAddress 9).toNat := by
    rw [ht.pc, hu.pushed.vectorAddress, hu.pushed.vector_stored h9 (by decide) (by decide) le_rfl]
  exact ⟨t, (hk _).trans hexec, ⟨hu.pushed.trans ht.pushed, hpc, ht.slot, ht.irqBlock⟩, hsr.trans hsru⟩

/-- In the statement's words. -/
theorem EnteredBelow.enteredAstray (ht : EnteredBelow s t n 9) (h : s.plainRam .long (s.stackSlot 1) = true) (hn : n ≤ 4) :
    s.enteredAstray t n :=
  ⟨ht.pushed.top, ht.pc, ht.slot, ht.irqBlock, ht.pushed.keepsRegs, ht.pushed.special,
    fun b hb => ht.pushed.outside b fun _ hk hkn => outside_slots h hn hb hk hkn⟩

/-- A stack that takes a longword has a plain first slot. -/
theorem State.canEnterAstray_firstSlot (h : s.canEnterAstray n vec = true) (hn : 1 ≤ n) :
    s.plainRam .long (s.stackSlot 1) = true := by
  obtain ⟨-, htakes, -⟩ := State.canEnterAstray_iff.1 h
  exact (State.stackTakes_iff.1 htakes).2 0 (by omega)

/-- SR after an entry: as it was without a level, and with one as it was but for the mask (rule R425). -/
theorem mask_of_raiseMask (h : t.sr = (raiseMask l s).sr) :
    (l = none → t.sr = s.sr) ∧ (∀ n, l = some n → t.mask = n % 16 ∧ s.keepsSr t [4, 5, 6, 7]) := by
  refine ⟨?_, ?_⟩
  · rintro rfl
    exact h
  · rintro n rfl
    have hsr : t.sr = withMask s.sr n := h
    refine ⟨?_, fun k hk => ?_⟩
    · rw [State.mask, hsr]
      exact mask_withMask s n
    · rw [hsr, bitOf_withMask, if_neg]
      simp only [List.mem_cons, List.not_mem_nil, or_false, not_or] at hk
      omega

/-! ## The fetch address error (rule R441) -/

theorem fetchHalf_forbidden {a : Word} (h : s.fetchForbidden a = true) : fetchHalf s a = .addressError s := by
  by_cases hodd : bitOf a 0 = true
  · exact fetchHalf_odd hodd s
  · have hregion : s.regionOf a.toNat = .peripheral ∨ s.regionOf a.toNat = .singleChipExternal := by
      simpa [State.fetchForbidden, hodd] using h
    rcases hregion with hr | hr <;> simp [fetchHalf, busRead, hr, Access.bind]

theorem SameCpu.fetchForbidden (h : SameCpu s t) (a : Word) : t.fetchForbidden a = s.fetchForbidden a := by
  rw [State.fetchForbidden, State.fetchForbidden, State.regionOf, State.regionOf, h.part, h.mode]

theorem stepEnters_fetchForbidden (h : s.cpuNext = true) (hf : s.fetchForbidden s.pc = true) :
    s.stepEnters enterAddressError := by
  obtain ⟨latch, k, hl, hstep⟩ := step_fetchDecode h
  have same : Same s.atCpuStep (if s.slot.isSome then s.atCpuStep else s.atBoundary) := by
    split
    · exact Same.refl _
    · exact s.atBoundary_only.same
  generalize (if s.slot.isSome then s.atCpuStep else s.atBoundary) = x at hstep same
  have hforbidden : x.fetchForbidden x.pc = true := by rw [same.pc, same.fetchForbidden]; exact hf
  have hdecode : fetchDecode latch x k = fetchAddressError (latch x) := by
    rw [fetchDecode, fetchHalf_forbidden hforbidden]
  exact stepEnters_of_raiseWith (same.trans (hl x).same) (hstep.trans (congrArg _ hdecode))

end

/-- Settles O33: the entries over a plain stack, those at a misaligned R15 as one or two entries in a row, the stop at the
vector, and the fetch that fails. -/
theorem exceptionEntry : Obligations.ExceptionEntry := by
  unfold Obligations.ExceptionEntry
  refine ⟨fun s vec saved level => ?entries, fun s h hf => stepEnters_fetchForbidden h hf⟩
  refine ⟨fun h => ?plain, fun h => ?plainError, fun h h9 => ?astray, fun h9 => ?astrayError, fun h hvbr => ?vbr⟩
  case plain =>
    obtain ⟨t, hexec, ht, hsr⟩ := enter_plain h saved level
    exact ⟨t, hexec, ht, mask_of_raiseMask hsr⟩
  case plainError =>
    obtain ⟨t, ht, hsr, hk⟩ := enterOnce_plain h saved none
    exact ⟨t, hk _, ht, hsr⟩
  case astray =>
    obtain ⟨t, hexec, ht, hsr⟩ := enter_astray h h9 saved level
    exact ⟨t, hexec, ht.enteredAstray (State.canEnterAstray_firstSlot h (by decide)) le_rfl, mask_of_raiseMask hsr⟩
  case astrayError =>
    obtain ⟨t, hexec, ht, hsr⟩ := enterAddressError_astray h9 saved
    exact ⟨t, hexec, ht.enteredAstray (State.canEnterAstray_firstSlot h9 (by decide)) (by decide), hsr⟩
  case vbr => exact ⟨enterOnce_vbrMisaligned h hvbr _, enterOnce_vbrMisaligned h hvbr _⟩

end Sys2Proof.Machine
end

section
/-! PROOF. The interrupt controller (statements O50 and O52): the source of the highest level among those that request, and the
latch of an IRQ pin that is sensed by its edges. -/

namespace Sys2Proof.Machine

/-! ## The selection (rule R484) -/

section
variable {s : State} {r : IntSource} {l before after : List IntSource}

theorem selectSource_cons_quiet (h : s.cpuRequests r = false) : selectSource s (r :: l) = selectSource s l := by
  simp [selectSource, h]

theorem selectSource_none (h : ∀ x ∈ l, s.cpuRequests x = false) : selectSource s l = none := by
  induction l with
  | nil => rfl
  | cons x rest ih =>
    rw [selectSource_cons_quiet (h x List.mem_cons_self)]
    exact ih fun y hy => h y (List.mem_cons_of_mem x hy)

/-- A selected level is the level of a source that requests. -/
theorem selectSource_level {v k : Nat} (h : selectSource s l = some (v, k)) :
    ∃ x ∈ l, s.cpuRequests x = true ∧ s.levelOf x = k := by
  induction l generalizing v k with
  | nil => cases h
  | cons x rest ih =>
    have inRest {v k : Nat} (h : selectSource s rest = some (v, k)) :
        ∃ y ∈ x :: rest, s.cpuRequests y = true ∧ s.levelOf y = k := by
      obtain ⟨y, hy, hreq, hlevel⟩ := ih h
      exact ⟨y, List.mem_cons_of_mem x hy, hreq, hlevel⟩
    cases hx : s.cpuRequests x with
    | false => exact inRest ((selectSource_cons_quiet hx).symm.trans h)
    | true =>
      have atHead (e : some (x.vec, s.levelOf x) = some (v, k)) :
          ∃ y ∈ x :: rest, s.cpuRequests y = true ∧ s.levelOf y = k :=
        ⟨x, List.mem_cons_self, hx, congrArg Prod.snd (Option.some.inj e)⟩
      rw [selectSource, if_pos hx] at h
      split at h
      · exact atHead h
      · next hbest =>
        split at h
        · exact inRest (hbest.trans h)
        · exact atHead h

/-- A source that requests is selected before all that follow it at no higher level. -/
theorem selectSource_head (hr : s.cpuRequests r = true)
    (h : ∀ x ∈ after, s.cpuRequests x = true → s.levelOf x ≤ s.levelOf r) :
    selectSource s (r :: after) = some (r.vec, s.levelOf r) := by
  rw [selectSource, if_pos hr]
  split
  · rfl
  · next v k hbest =>
    obtain ⟨x, hx, hreq, hlevel⟩ := selectSource_level hbest
    exact if_neg (Nat.not_lt.2 (hlevel ▸ h x hx hreq))

/-- Sources in front of a selected one that request at a lower level, or not at all, change nothing. -/
theorem selectSource_append {v k : Nat} (hsel : selectSource s l = some (v, k))
    (h : ∀ x ∈ before, s.cpuRequests x = true → s.levelOf x < k) : selectSource s (before ++ l) = some (v, k) := by
  induction before with
  | nil => exact hsel
  | cons x rest ih =>
    have hrest := ih fun y hy => h y (List.mem_cons_of_mem x hy)
    cases hx : s.cpuRequests x with
    | false => exact (selectSource_cons_quiet hx).trans hrest
    | true =>
      rw [List.cons_append, selectSource, if_pos hx, hrest]
      exact if_pos (h x List.mem_cons_self hx)

end

/-- Settles O50: the list of the sources is cut at the selected one. -/
theorem highestPriority : Obligations.HighestPriority := by
  unfold Obligations.HighestPriority
  intro s broken
  have hbroken : (s.ubc.live.pending && decide (s.mask < 15)) = true ↔ broken := by simp [broken]
  refine ⟨fun hb => intcSelect_break (hbroken.2 hb), fun hb hnmi => ?nmi, fun hb hnmi => ⟨?request, fun hquiet => ?none⟩⟩
  all_goals rw [← hbroken] at hb
  case nmi => rw [intcSelect, if_neg hb, if_pos hnmi]
  case request =>
    intro before r after hsources hr hbefore hafter
    have hsel := selectSource_append (selectSource_head hr hafter) hbefore
    rw [← hsources] at hsel
    rw [intcSelect, if_neg hb, if_neg (by simp [hnmi]), hsel]
  case none => rw [intcSelect, if_neg hb, if_neg (by simp [hnmi]), selectSource_none hquiet]

/-! ## An IRQ pin sensed by its edges (rules R471, R472, R479) -/

section
variable {s : State} {v : Half}

/-- The flag of a pin that is not sensed by its level is the latch. -/
theorem irqFlag_edge {n : Nat} (h : s.intc.sense n ≠ 0) : s.irqFlag n = bitOf s.intc.irqF n := if_neg h

/-- What a level on the pin leaves of the latch: set, where the change is the selected edge. -/
theorem irqPin_irqFlag (n : Fin 4) (high : Bool) (h : s.intc.sense n.val ≠ 0) :
    (irqPin n.val high s).irqFlag n.val =
      (edgeOf (s.intc.sense n.val) (bitOf s.pins.irq n.val) high || s.irqFlag n.val) := by
  have hsense : (irqPin n.val high s).intc.sense n.val = s.intc.sense n.val := by
    unfold irqPin
    dsimp only
    split <;> rfl
  rw [irqFlag_edge h, irqFlag_edge (hsense ▸ h)]
  unfold irqPin
  dsimp only
  split
  · next hit => simp [hit, bitOf_withBit _ _ _ _ n.isLt]
  · next hit => simp [hit]

theorem edgeOf_iff {sense : BitVec 2} {old new : Bool} :
    edgeOf sense old new = true ↔ (sense = 1 ∧ old = true ∧ new = false) ∨ (sense = 2 ∧ old = false ∧ new = true) ∨
      (sense = 3 ∧ old ≠ new) := by
  simp [edgeOf, and_assoc, or_assoc]

/-- Each flag of four is given by its number. -/
theorem bitOf_nibbleOf (f : Nat → Bool) (n : Fin 4) : bitOf (nibbleOf f) n.val = f n.val := by
  unfold nibbleOf
  fin_cases n <;> simp [bitOf_withBit]

theorem acknowledge_irq (n : Fin 4) (s : State) :
    (acknowledge (64 + n.val) s).intc.irqcr = s.intc.irqcr ∧
      (acknowledge (64 + n.val) s).intc.irqF = withBit s.intc.irqF n.val false := by
  have hn := n.isLt
  rw [acknowledge, if_neg (by omega), if_neg (by omega), if_pos (by omega), Nat.add_sub_cancel_left]
  exact ⟨rfl, rfl⟩

/-- A word written to IRQSR keeps a latch unless it writes a 0 after a 1 was read. -/
theorem intcWrite_irqsr_latch (n : Fin 4) :
    bitOf (intcWrite .irqsr v 0xFFFF s).intc.irqF n.val =
      (bitOf s.intc.irqF n.val && !(!(bitOf v n.val) && bitOf s.intc.irqRead n.val)) := by
  have htouched : ∀ n : Fin 4, bitOf (0xFFFF : Half) n.val = true := by decide
  simp only [intcWrite, bitOf_nibbleOf, htouched, Bool.true_and]

end

/-- Settles O52: an edge-sensed flag is the latch, which each operation is said to set, keep or clear. -/
theorem irqEdgeLatch : Obligations.IrqEdgeLatch := by
  unfold Obligations.IrqEdgeLatch
  intro s n high v hsense
  refine ⟨fun hclear => ?set, fun hset => ?kept, ?accepted, fun hset => ?written⟩
  case set => rw [irqPin_irqFlag n high hsense, hclear, Bool.or_false, edgeOf_iff]
  case kept => rw [irqPin_irqFlag n high hsense, hset, Bool.or_true]
  case accepted =>
    obtain ⟨hcontrol, hlatch⟩ := acknowledge_irq n s
    have hsame : (acknowledge (64 + n.val) s).intc.sense n.val = s.intc.sense n.val := by
      rw [Intc.sense, Intc.sense, hcontrol]
    rw [irqFlag_edge (hsame ▸ hsense), hlatch, bitOf_withBit _ _ _ _ n.isLt, if_pos rfl]
  case written =>
    have hsame : (intcWrite .irqsr v 0xFFFF s).intc.sense n.val = s.intc.sense n.val := rfl
    rw [irqFlag_edge hsense] at hset
    rw [irqFlag_edge (hsame ▸ hsense), intcWrite_irqsr_latch, hset]
    simp

end Sys2Proof.Machine
end

section
/-! PROOF. Registers through the bus (statements O51, O55 and O58): an access of the CPU to the peripheral space, to one whole
register of the map, and then the registers of the INTC, the AUD, the power-down control, the CMT and the WDT. -/

namespace Sys2Proof.Machine

/-! ## What the UBC's watching leaves of its trace queue (rule R508) -/

theorem ubcEffective_trace (s : State) : (ubcEffective s).2.ubc.trace = s.ubc.trace := by
  unfold ubcEffective
  split
  · rfl
  · dsimp only
    rw [settleLag_ubc]

theorem ubcCount_trace (sticks : Bool) (s : State) : (ubcCount sticks s).ubc.trace = s.ubc.trace := by
  unfold ubcCount
  split <;> rfl

theorem ubcMet_trace (r : UbcRegs) (sticks ibus together hitA hitB : Bool) (s : State) :
    (ubcMet r sticks ibus together hitA hitB s).2.ubc.trace = s.ubc.trace := by
  unfold ubcMet
  dsimp only
  split
  · exact ubcCount_trace sticks s
  · rfl

theorem requestDataBreak_trace (sticks late : Bool) (s : State) :
    (requestDataBreak sticks late s).ubc.trace = s.ubc.trace := by
  unfold requestDataBreak
  split <;> rfl

theorem requestFetchBreak_trace (s : State) : (requestFetchBreak s).ubc.trace = s.ubc.trace := rfl

theorem ubcObserve_trace (c : BusCycle) (s : State) : (ubcObserve c s).ubc.trace = s.ubc.trace := by
  unfold ubcObserve
  split
  · rfl
  · have hmet (r : UbcRegs) (sticks ibus together hitA hitB : Bool) :
        (ubcMet r sticks ibus together hitA hitB (ubcEffective s).2.drawBit.2.drawBit.2).2.ubc.trace = s.ubc.trace :=
      (ubcMet_trace r sticks ibus together hitA hitB _).trans (ubcEffective_trace s)
    dsimp only
    split
    · split
      · exact (requestFetchBreak_trace _).trans (hmet _ _ _ _ _ _)
      · exact (requestDataBreak_trace _ _ _).trans (hmet _ _ _ _ _ _)
    · exact hmet _ _ _ _ _ _

theorem observeCpu_trace (write : Bool) (z : Size) (a v : Word) (s : State) :
    (observeCpu write z a v s).ubc.trace = s.ubc.trace := by
  unfold observeCpu
  dsimp only
  split
  · exact (ubcObserve_trace _ _).trans (ubcObserve_trace _ _)
  · exact ubcObserve_trace _ _

/-! ## An access to the peripheral space -/

section
variable {s t : State} {z : Size} {a v x : Word} {f : Fault}

/-- The address is aligned for the size and lies in the peripheral space. -/
structure Peripheral (z : Size) (a : Word) : Prop where
  aligned : misaligned z a = false
  above : 0xFFFFC000 ≤ a.toNat

theorem Peripheral.region (h : Peripheral z a) (s : State) : s.regionOf a.toNat = .peripheral :=
  region_peripheral_iff.2 h.above

theorem Peripheral.busRead (h : Peripheral z a) (m : Master) (s : State) :
    busRead m false s z a = periphRead s z a.toNat := by
  simp [Machine.busRead, h.aligned, h.region s]

theorem Peripheral.busWrite (h : Peripheral z a) (s : State) (v : Word) :
    busWrite s z a v = periphWrite s z a.toNat v := by
  simp [Machine.busWrite, h.aligned, h.region s]

/-- A write of a register changes beside it what the UBC notes of the cycle. -/
theorem Peripheral.cpuWrite_ok (h : Peripheral z a) (hw : periphWrite s z a.toNat v = .ok () t) :
    cpuWrite s z a v = .ok () (observeCpu true z a v t) := by
  have hfetch : s.fetchable a = false := by simp [State.fetchable, h.region s]
  simp [cpuWrite, h.busWrite, hw, openStale, hfetch]

theorem Peripheral.cpuWrite_stop (h : Peripheral z a) (hw : periphWrite s z a.toNat v = .stop f) :
    cpuWrite s z a v = .stop f := by
  simp [cpuWrite, h.busWrite, hw]

theorem Peripheral.cpuRead_ok (h : Peripheral z a) (hr : periphRead s z a.toNat = .ok x t) :
    ∃ u, cpuRead s z a = .ok x u ∧ OnlyUbc t u := by
  refine ⟨ubcReadBack a (observeCpu false z a x t), ?_, (observeCpu_only _ _ _ _ _).trans (ubcReadBack_only _ _)⟩
  simp [cpuRead, h.busRead, hr]

theorem Peripheral.cpuRead_stop (h : Peripheral z a) (hr : periphRead s z a.toNat = .stop f) : cpuRead s z a = .stop f := by
  simp [cpuRead, h.busRead, hr]

/-- No access of the CPU to a register changes a register of the CPU or a byte of memory. -/
theorem Peripheral.frame_write (h : Peripheral z a) (hw : cpuWrite s z a v = .ok () t) :
    t.regs = s.regs ∧ s.keepsMemory t :=
  ⟨(Machine.cpuWrite_ok hw).regs, (Machine.cpuWrite_ok hw).peripheral (h.region s)⟩

theorem frame_read (hr : cpuRead s z a = .ok x t) : t.regs = s.regs ∧ s.keepsMemory t :=
  ⟨(cpuRead_ok hr).regs, (cpuRead_ok hr).byteAt⟩

end

/-! ## One whole register (rules R70, R111, R626) -/

/-- On every part an access of the size at the address is one of the whole register, the map lists the size for it, and it
takes no key. -/
structure WholeRegister (z : Size) (a : Word) (r : RegDesc) : Prop extends Peripheral z a where
  found : ∀ p, regAt p a.toNat = some r
  addr : r.addr = a.toNat
  bytes : r.bytes = z.bytes
  allows : r.allows z = true
  unkeyed : wdtAddress a.toNat = false

section
variable {s t : State} {z : Size} {a v : Word} {r : RegDesc} {f : Fault}

theorem WholeRegister.coverRegs (h : WholeRegister z a r) (p : Part) :
    coverRegs p a.toNat 4 z.bytes = some [{ reg := r, off := 0, len := z.bytes }] := by
  cases z <;> simp [Machine.coverRegs, h.found, h.addr, h.bytes, Size.bytes]

theorem WholeRegister.allowedParts (h : WholeRegister z a r) (s : State) :
    allowedParts s z a.toNat =
      if r.module.stopped s.power then .error .moduleStopped else .ok [{ reg := r, off := 0, len := z.bytes }] := by
  simp [Machine.allowedParts, h.found, h.allows, h.coverRegs]

theorem readParts_whole (h : r.bytes = z.bytes) (s : State) :
    readParts [{ reg := r, off := 0, len := z.bytes }] 0 s =
      (lowPart z (regRead r.id (lowBytes z.bytes) s).1, (regRead r.id (lowBytes z.bytes) s).2) := by
  have hshift : (RegPart.shift { reg := r, off := 0, len := z.bytes }) = 0 := by simp [RegPart.shift, h]
  simp [readParts, hshift, lowPart, lowBytes]

theorem writeParts_whole (h : r.bytes = z.bytes) (v : Word) (s : State) :
    writeParts [{ reg := r, off := 0, len := z.bytes }] z.bytes v s =
      regWrite r.id (lowPart z v) (lowBytes z.bytes) s := by
  have hshift : (RegPart.shift { reg := r, off := 0, len := z.bytes }) = 0 := by simp [RegPart.shift, h]
  simp only [writeParts, hshift, Nat.sub_self, Nat.mul_zero, BitVec.shiftLeft_zero, BitVec.ushiftRight_zero]
  change (regWrite r.id (lowPart z v) (lowBytes z.bytes) s).bind _ = _
  cases regWrite r.id (lowPart z v) (lowBytes z.bytes) s <;> rfl

theorem WholeRegister.periphRead (h : WholeRegister z a r) (hrun : r.module.stopped s.power = false) :
    periphRead s z a.toNat =
      .ok (lowPart z (regRead r.id (lowBytes z.bytes) s).1) (regRead r.id (lowBytes z.bytes) s).2 := by
  rw [Machine.periphRead, if_neg (by simp [h.unkeyed]), h.allowedParts, if_neg (by simp [hrun])]
  dsimp only
  rw [readParts_whole h.bytes]

theorem WholeRegister.periphWrite (h : WholeRegister z a r) (hrun : r.module.stopped s.power = false) (v : Word) :
    periphWrite s z a.toNat v = regWrite r.id (lowPart z v) (lowBytes z.bytes) s := by
  simp [Machine.periphWrite, h.unkeyed, h.allowedParts, hrun, writeParts_whole h.bytes]

theorem WholeRegister.cpuRead_stopped (h : WholeRegister z a r) (hstop : r.module.stopped s.power = true) :
    cpuRead s z a = .stop .moduleStopped :=
  h.cpuRead_stop (by simp [Machine.periphRead, h.unkeyed, h.allowedParts, hstop])

theorem WholeRegister.cpuWrite_stopped (h : WholeRegister z a r) (hstop : r.module.stopped s.power = true) (v : Word) :
    cpuWrite s z a v = .stop .moduleStopped :=
  h.cpuWrite_stop (by simp [Machine.periphWrite, h.unkeyed, h.allowedParts, hstop])

/-- A write of a register that runs is what the register takes, and what the UBC's watching of the cycle adds. -/
theorem WholeRegister.writes (h : WholeRegister z a r) (hrun : r.module.stopped s.power = false)
    (hw : regWrite r.id (lowPart z v) (lowBytes z.bytes) s = .ok () t) {q : State → Prop}
    (hq : ∀ u, OnlyUbc t u → u.ubc.trace = t.ubc.trace → q u) :
    ∃ u, cpuWrite s z a v = .ok () u ∧ q u ∧ u.regs = s.regs ∧ s.keepsMemory u := by
  have hok := h.cpuWrite_ok ((h.periphWrite hrun v).trans hw)
  exact ⟨_, hok, hq _ (observeCpu_only _ _ _ _ _) (observeCpu_trace _ _ _ _ _), h.frame_write hok⟩

theorem WholeRegister.write_stops (h : WholeRegister z a r) (hrun : r.module.stopped s.power = false)
    (hw : regWrite r.id (lowPart z v) (lowBytes z.bytes) s = .stop f) : cpuWrite s z a v = .stop f :=
  h.cpuWrite_stop ((h.periphWrite hrun v).trans hw)

/-- A read of a register that runs answers what the register reads. -/
theorem WholeRegister.reads (h : WholeRegister z a r) (hrun : r.module.stopped s.power = false) {x : Word}
    (hr : regRead r.id (lowBytes z.bytes) s = (x, t)) (hx : lowPart z x = x) {q : State → Prop}
    (hq : ∀ u, OnlyUbc t u → q u) :
    ∃ u, cpuRead s z a = .ok x u ∧ q u ∧ u.regs = s.regs ∧ s.keepsMemory u := by
  have hread := h.periphRead (s := s) hrun
  rw [hr, hx] at hread
  obtain ⟨u, hok, honly⟩ := h.cpuRead_ok hread
  exact ⟨u, hok, hq u honly, frame_read hok⟩

end

/-! ## Narrow registers in a longword -/

/-- A register no wider than the access has nothing above it. -/
theorem lowPart_setWidth {n : Nat} {z : Size} (x : BitVec n) (h : n ≤ 8 * z.bytes) :
    lowPart z (x.setWidth 32) = x.setWidth 32 := by
  refine BitVec.eq_of_getLsbD_eq fun k hk => ?_
  rw [lowPart_bit, BitVec.getLsbD_setWidth]
  by_cases hn : k < n
  · simp [show k < 8 * z.bytes by omega]
  · simp [BitVec.getLsbD_of_ge x k (by omega)]

/-- The part of an operand that a narrow register takes. -/
theorem setWidth_lowPart {n : Nat} {z : Size} (v : Word) (h : n ≤ 8 * z.bytes) :
    (lowPart z v).setWidth n = v.setWidth n := by
  refine BitVec.eq_of_getLsbD_eq fun k hk => ?_
  rw [BitVec.getLsbD_setWidth, BitVec.getLsbD_setWidth, lowPart_bit]
  simp [show k < 8 * z.bytes by omega]

theorem bitOf_setWidth {n : Nat} (v : Word) {k : Nat} (h : k < n) : bitOf (v.setWidth n) k = bitOf v k := by
  simp [bitOf, h]

theorem lowBytes_word : (lowBytes Size.word.bytes).setWidth 16 = (0xFFFF : Half) := by decide

/-- A write that reaches every bit leaves none of the old ones. -/
theorem mergeBits_word (old v : Half) : mergeBits old v 0xFFFF = v := by
  change (old &&& ~~~BitVec.allOnes 16) ||| (v &&& BitVec.allOnes 16) = v
  rw [BitVec.and_allOnes, BitVec.not_allOnes, BitVec.and_zero, BitVec.zero_or]

/-! ## IPRA and the registers of the AUD (rules R70, R473, R618, R641, R643) -/

/-- The longword at the address is a register of the AUD. -/
structure AudRegister (a : Word) (id : RegId) : Prop where
  whole : ∃ r, WholeRegister .long a r ∧ r.module = .aud ∧ r.id = id
  reads : ∀ t s, regRead id t s = (audRegRead id s.aud, s)
  writes : ∀ v t s, regWrite id v t s = audRegWrite id v s

/-- The registers of the AUD with their addresses (rule R90). -/
def audRegisters : List (Word × RegId) :=
  [(0xFFFFF400, .aucsr), (0xFFFFF404, .auwasr), (0xFFFFF408, .auwaer), (0xFFFFF40C, .auwbsr), (0xFFFFF410, .auwber),
    (0xFFFFF414, .auecsr)]

theorem audRegister_of_mem {p : Word × RegId} (hp : p ∈ audRegisters) : AudRegister p.1 p.2 := by
  fin_cases hp <;>
    exact ⟨⟨_, ⟨⟨rfl, by decide⟩, fun _ => rfl, rfl, rfl, rfl, rfl⟩, rfl, rfl⟩, fun _ _ => rfl, fun _ _ _ => rfl⟩

section
variable {s t : State} {v a : Word} {id : RegId} {q : State → Prop}

theorem AudRegister.read (h : AudRegister a id) (hclock : bitOf s.power.stbcr5 1 = false) :
    ∃ u, cpuRead s .long a = .ok (audRegRead id s.aud) u ∧ u.aud = s.aud ∧ u.regs = s.regs ∧ s.keepsMemory u := by
  obtain ⟨r, hwhole, hmodule, rfl⟩ := h.whole
  refine hwhole.reads (by rw [hmodule]; exact hclock) (h.reads _ s) (lowPart_long _) fun u hu => ?_
  obtain ⟨_, _, rfl⟩ := hu
  rfl

theorem AudRegister.write (h : AudRegister a id) (hclock : bitOf s.power.stbcr5 1 = false)
    (hw : audRegWrite id v s = .ok () t) (hq : ∀ u, OnlyUbc t u → u.ubc.trace = t.ubc.trace → q u) :
    ∃ u, cpuWrite s .long a v = .ok () u ∧ q u ∧ u.regs = s.regs ∧ s.keepsMemory u := by
  obtain ⟨r, hwhole, hmodule, rfl⟩ := h.whole
  exact hwhole.writes (by rw [hmodule]; exact hclock) (by rw [h.writes, lowPart_long, hw]) hq

theorem AudRegister.write_stops (h : AudRegister a id) (hclock : bitOf s.power.stbcr5 1 = false) {f : Fault}
    (hw : audRegWrite id v s = .stop f) : cpuWrite s .long a v = .stop f := by
  obtain ⟨r, hwhole, hmodule, rfl⟩ := h.whole
  exact hwhole.write_stops (by rw [hmodule]; exact hclock) (by rw [h.writes, lowPart_long, hw])

/-- In one of its resets the AUD takes no write. -/
theorem audRegWrite_reset (hreset : bitOf s.power.stbcr6 7 = false ∨ s.pins.audrst = false) :
    audRegWrite id v s = .ok () s := by
  refine if_pos ?_
  obtain h | h := hreset <;> simp [h]

/-- Outside them it takes every write but one of EN beside the PC trace. -/
theorem audRegWrite_free (hfree : bitOf s.power.stbcr6 7 = true ∧ s.pins.audrst = true)
    (hallowed : id ≠ .aucsr ∨ s.ubc.regs.pcte = false) : audRegWrite id v s = .ok () (audPut id v s) := by
  obtain ⟨hsoft, hpin⟩ := hfree
  rw [audRegWrite, if_neg (by simp [hsoft, hpin]), if_neg]
  obtain h | h := hallowed <;> simp [h]

theorem audRegWrite_prohibited (hfree : bitOf s.power.stbcr6 7 = true ∧ s.pins.audrst = true)
    (hen : bitOf v 0 = true) (htrace : s.ubc.regs.pcte = true) :
    audRegWrite .aucsr v s = .stop .prohibitedSetting := by
  obtain ⟨hsoft, hpin⟩ := hfree
  rw [audRegWrite, if_neg (by simp [hsoft, hpin]), if_pos (by simp [hen, htrace])]

theorem audPut_aucsr (s : State) (v : Word) :
    (audPut .aucsr v s).aud = { s.aud with aucsr := v &&& 0xCFF3 } ∧
      (bitOf v 0 = true → bitOf s.aud.aucsr 0 = false → (audPut .aucsr v s).ubc.trace = []) := by
  unfold audPut
  dsimp only
  split
  · exact ⟨rfl, fun _ _ => rfl⟩
  · next hkept => exact ⟨rfl, fun hon hoff => absurd (by simp [hon, hoff]) hkept⟩

theorem OnlyUbc.aud (h : OnlyUbc s t) : t.aud = s.aud := by
  obtain ⟨_, _, rfl⟩ := h
  rfl

theorem OnlyUbc.intc (h : OnlyUbc s t) : t.intc = s.intc := by
  obtain ⟨_, _, rfl⟩ := h
  rfl

/-- The AUD software reset initialises AUCSR, AUECSR and the shared queue. -/
theorem powerPut_audReset {b : Byte} (h : bitOf b 7 = false) (s : State) :
    (powerPut .stbcr6 b s).aud.aucsr = 0 ∧ (powerPut .stbcr6 b s).aud.auecsr = 1 ∧
      (powerPut .stbcr6 b s).ubc.trace = [] := by
  simp only [powerPut, h, Bool.false_eq_true, if_false]
  exact ⟨rfl, rfl, rfl⟩

theorem wholeRegister_ipra : WholeRegister .word 0xFFFFE906 (regRow 0xFFFFE906 2 3 .intc .ipra 0x0) :=
  ⟨⟨rfl, by decide⟩, fun _ => rfl, rfl, rfl, rfl, rfl⟩

theorem wholeRegister_stbcr6 : WholeRegister .byte 0xFFFFE80C (regRow 0xFFFFE80C 1 1 .system .stbcr6 0x0) :=
  ⟨⟨rfl, by decide⟩, fun _ => rfl, rfl, rfl, rfl, rfl⟩

theorem intcWrite_ipra (v : Half) (s : State) : (intcWrite .ipra v 0xFFFF s).intc.ipra = v := by
  change mergeBits s.intc.ipra v 0xFFFF &&& BitVec.allOnes 16 = v
  rw [mergeBits_word, BitVec.and_allOnes]

end

/-- Settles O51: register by register, what each reads and takes. -/
theorem moduleRegisters : Obligations.ModuleRegisters := by
  unfold Obligations.ModuleRegisters
  intro s v writes reads
  have aud {p : Word × RegId} (hp : p ∈ audRegisters) : AudRegister p.1 p.2 := audRegister_of_mem hp
  refine ⟨?ipraWrite, ?ipraRead, fun hclock => ⟨?_, ?_, ?_, ?_, ?_, ?_, fun hfree => ?audFree, fun hreset => ?audReset⟩,
    fun hsoft => ?softReset⟩
  case ipraWrite =>
    refine wholeRegister_ipra.writes rfl rfl fun u hu _ => ?_
    rw [hu.intc, lowBytes_word, setWidth_lowPart v (by decide)]
    exact intcWrite_ipra _ _
  case ipraRead =>
    exact wholeRegister_ipra.reads rfl rfl (lowPart_setWidth _ (by decide)) fun u hu => hu.intc
  case audFree =>
    have takes {p : Word × RegId} (hp : p ∈ audRegisters) (hid : p.2 ≠ .aucsr) {x : Aud}
        (hx : (audPut p.2 v s).aud = x) : writes .long p.1 (fun u => u.aud = x) :=
      (aud hp).write hclock (audRegWrite_free hfree (.inl hid)) fun u hu _ => hu.aud.trans hx
    refine ⟨takes (p := (_, .auwasr)) (by decide) (by decide) rfl, takes (p := (_, .auwaer)) (by decide) (by decide) rfl,
      takes (p := (_, .auwbsr)) (by decide) (by decide) rfl, takes (p := (_, .auwber)) (by decide) (by decide) rfl,
      takes (p := (_, .auecsr)) (by decide) (by decide) rfl, fun hen htrace => ?_, fun htrace => ?_⟩
    · exact (aud (p := (_, .aucsr)) (by decide)).write_stops hclock (audRegWrite_prohibited hfree hen htrace)
    · obtain ⟨haud, hempty⟩ := audPut_aucsr s v
      exact (aud (p := (_, .aucsr)) (by decide)).write hclock (audRegWrite_free hfree (.inr htrace)) fun u hu hqueue =>
        ⟨hu.aud.trans haud, fun hon hoff => hqueue.trans (hempty hon hoff)⟩
  case audReset =>
    intro a ha
    obtain ⟨p, hp, rfl⟩ := List.mem_map.1 (show a ∈ audRegisters.map Prod.fst from ha)
    exact (aud hp).write hclock (audRegWrite_reset hreset) fun u hu _ => hu.aud
  case softReset =>
    have hbit : bitOf ((lowPart .byte v).setWidth 8) 7 = false := by
      rw [setWidth_lowPart v (by decide), bitOf_setWidth v (by decide), hsoft]
    obtain ⟨haucsr, hauecsr, htrace⟩ := powerPut_audReset hbit s
    refine wholeRegister_stbcr6.writes rfl rfl fun u hu hqueue => ?_
    rw [hu.aud, hqueue]
    exact ⟨haucsr, hauecsr, htrace⟩
  · exact (aud (p := (_, .aucsr)) (by decide)).read hclock
  · exact (aud (p := (_, .auwasr)) (by decide)).read hclock
  · exact (aud (p := (_, .auwaer)) (by decide)).read hclock
  · exact (aud (p := (_, .auwbsr)) (by decide)).read hclock
  · exact (aud (p := (_, .auwber)) (by decide)).read hclock
  · exact (aud (p := (_, .auecsr)) (by decide)).read hclock

/-! ## CMCSR_0 (rules R605, R606, R626) -/

section
variable {s : State} {v : Word}

theorem wholeRegister_cmcsr0 : WholeRegister .word 0xFFFFCE02 (regRow 0xFFFFCE02 2 3 .cmt .cmcsr0 0x0) :=
  ⟨⟨rfl, by decide⟩, fun _ => rfl, rfl, rfl, rfl, rfl⟩

/-- The bits of CMCSR after a word is written: CMF is cleared by a 0 after a read of 1 alone, and CMIE and CKS are written. -/
theorem bitOf_cmtWriteStatus (v : Half) (c : CmtChannel) (k : Nat) :
    bitOf (cmtWriteStatus v 0xFFFF c).cmcsr k =
      if k = 7 then bitOf c.cmcsr 7 && (bitOf v 7 || !c.cmfRead) else bitOf v k && bitOf (0x0043 : Half) k := by
  have htouched : bitOf (0xFFFF : Half) 7 = true := by decide
  unfold cmtWriteStatus
  dsimp only
  rw [bitOf_withBit _ _ _ _ (by decide), mergeBits_word, bitOf_and, htouched]
  cases bitOf v 7 <;> cases c.cmfRead <;> simp

end

/-- Settles O58: with its clock stopped the CMT takes no access; with it on CMCSR_0 is a whole register. -/
theorem moduleStandby : Obligations.ModuleStandby := by
  unfold Obligations.ModuleStandby
  intro s v
  refine ⟨fun hstop => ⟨wholeRegister_cmcsr0.cpuRead_stopped hstop, wholeRegister_cmcsr0.cpuWrite_stopped hstop v⟩,
    fun hclock => ⟨?read, ?write⟩⟩
  case read =>
    obtain ⟨u, hok, -, hframe⟩ := wholeRegister_cmcsr0.reads (s := s) hclock rfl (lowPart_setWidth _ (by decide))
      (q := fun _ => True) fun _ _ => trivial
    exact ⟨u, hok, hframe⟩
  case write =>
    obtain ⟨u, hok, hstatus, hregs, hmem⟩ := wholeRegister_cmcsr0.writes (s := s) (v := v) hclock rfl
      (q := fun u => u.cmt.ch0.cmcsr = (cmtWriteStatus (v.setWidth 16) 0xFFFF s.cmt.ch0).cmcsr) fun u hu _ => by
        obtain ⟨_, _, rfl⟩ := hu
        rw [lowBytes_word, setWidth_lowPart v (by decide)]
        rfl
    refine ⟨u, hok, hregs, hmem, fun k hk => ?_, ?_⟩
    · have hwritten : k < 16 ∧ k ≠ 7 ∧ bitOf (0x0043 : Half) k = true := by
        obtain rfl | rfl | rfl := hk <;> decide
      obtain ⟨hlt, hne, hmask⟩ := hwritten
      rw [hstatus, bitOf_cmtWriteStatus, if_neg hne, hmask, Bool.and_true, bitOf_setWidth v hlt]
    · rw [hstatus, bitOf_cmtWriteStatus, if_pos rfl, bitOf_setWidth v (by decide)]
      simp

/-! ## The WDT's keys (rule R593) -/

section
variable {s : State} {z : Size} {a v : Word}

theorem OnlyUbc.wdt {s t : State} (h : OnlyUbc s t) : t.wdt = s.wdt := by
  obtain ⟨_, _, rfl⟩ := h
  rfl

/-- What a write of WTCNT's or WTCSR's address leaves of the WDT. -/
def wdtWritten (z : Size) (a v : Word) (w : Wdt) : Wdt :=
  match z with
  | .word => if a = 0xFFFFE810 then wdtWriteCount (v.setWidth 16) w else wdtWriteStatus (v.setWidth 16) w
  | .byte | .long => w

theorem cpuWrite_wdt (h : Peripheral z a) (hkeyed : wdtAddress a.toNat = true) :
    ∃ u, cpuWrite s z a v = .ok () u ∧ u.wdt = wdtWritten z a v s.wdt := by
  have hcount : a.toNat = 0xFFFFE810 ↔ a = 0xFFFFE810 := by
    rw [← BitVec.toNat_inj]
    rfl
  have hw : periphWrite s z a.toNat v = .ok () { s with wdt := wdtWritten z a v s.wdt } := by
    cases z <;> simp [periphWrite, hkeyed, wdtWritten, hcount]
  exact ⟨_, h.cpuWrite_ok hw, (observeCpu_only _ _ _ _ _).wdt⟩

theorem extractLsb'_setWidth (v : Word) {start : Nat} (h : start + 8 ≤ 16) :
    (v.setWidth 16).extractLsb' start 8 = v.extractLsb' start 8 := by
  refine BitVec.eq_of_getLsbD_eq fun k hk => ?_
  simp [hk]
  omega

theorem wdtWriteCount_written (v : Half) (w : Wdt) :
    (wdtWriteCount v w).wtcsr = w.wtcsr ∧
      (wdtWriteCount v w).wtcnt = if v.extractLsb' 8 8 = 0x5A then v.extractLsb' 0 8 else w.wtcnt := by
  unfold wdtWriteCount
  split <;> exact ⟨rfl, rfl⟩

theorem wdtWriteStatus_written (v : Half) (w : Wdt) :
    (wdtWriteStatus v w).wtcnt = w.wtcnt ∧
      (wdtWriteStatus v w).wtcsr = if v.extractLsb' 8 8 = 0xA5 then v.extractLsb' 0 8 else w.wtcsr := by
  unfold wdtWriteStatus
  split <;> exact ⟨rfl, rfl⟩

end

/-- Settles O55: the keyed words, and the sizes that no key opens. -/
theorem watchdogKeys : Obligations.WatchdogKeys := by
  unfold Obligations.WatchdogKeys
  intro s v
  have writes (z : Size) (a : Word) (h : Peripheral z a) (hkeyed : wdtAddress a.toNat = true) :
      ∃ u, cpuWrite s z a v = .ok () u ∧ u.wdt = wdtWritten z a v s.wdt := cpuWrite_wdt h hkeyed
  refine ⟨?count, ?status, writes .byte 0xFFFFE810 ⟨rfl, by decide⟩ rfl, writes .byte 0xFFFFE812 ⟨rfl, by decide⟩ rfl,
    writes .long 0xFFFFE810 ⟨rfl, by decide⟩ rfl⟩
  case count =>
    obtain ⟨u, hok, hwdt⟩ := writes .word 0xFFFFE810 ⟨rfl, by decide⟩ rfl
    obtain ⟨hstatus, hcount⟩ := wdtWriteCount_written (v.setWidth 16) s.wdt
    rw [extractLsb'_setWidth v (by decide), extractLsb'_setWidth v (by decide)] at hcount
    exact ⟨u, hok, (congrArg Wdt.wtcsr hwdt).trans hstatus, (congrArg Wdt.wtcnt hwdt).trans hcount⟩
  case status =>
    obtain ⟨u, hok, hwdt⟩ := writes .word 0xFFFFE812 ⟨rfl, by decide⟩ rfl
    obtain ⟨hcount, hstatus⟩ := wdtWriteStatus_written (v.setWidth 16) s.wdt
    rw [extractLsb'_setWidth v (by decide), extractLsb'_setWidth v (by decide)] at hstatus
    exact ⟨u, hok, (congrArg Wdt.wtcnt hwdt).trans hcount, (congrArg Wdt.wtcsr hwdt).trans hstatus⟩

end Sys2Proof.Machine
end

section
/-! PROOF. The timers on one period of the peripheral clock (statements O53, O54 and O60): the channels of the CMT, the overflow of
the WDT with the reset it may bring, and the settling count of software standby. -/

namespace Sys2Proof.Machine

/-- What follows a period of the peripheral clock on the agenda leaves the CPU and the modules alone. -/
theorem step_ptick {s : State} {meets : Bool} {rest : List Event} (hm : modeRuns s.mode = true)
    (ha : s.agenda = .ptick meets :: rest) :
    ∃ t, step s = .next t ∧ Spares (ptickEvent meets (s.atEvent rest)) t := by
  rw [← clearRaces_agenda]
  exact step_answers hm ha (by simp) rfl

/-- In program execution both timers count. -/
theorem ptickEvent_run {s : State} (h : s.proc = .run) (meets : Bool) : ptickEvent meets s = runPtick meets s := by
  simp [ptickEvent, h]

/-! ## The compare match timer (rules R608, R609) -/

/-- No count clock of either channel coincides with the next access. -/
def Cmt.withoutRaces (c : Cmt) : Cmt :=
  { c with ch0 := { c.ch0 with race := none }, ch1 := { c.ch1 with race := none } }

theorem Cmt.withoutRaces_of_none {c : Cmt} (h0 : c.ch0.race = none) (h1 : c.ch1.race = none) : c.withoutRaces = c := by
  obtain ⟨cmstr, ⟨_, _, _, _, _, race0⟩, ⟨_, _, _, _, _, race1⟩⟩ := c
  cases h0
  cases h1
  rfl

theorem clearRaces_cmt (s : State) : (clearRaces s).cmt = s.cmt.withoutRaces := by
  unfold clearRaces
  split
  · next hnone =>
    obtain ⟨h0, h1⟩ : s.cmt.ch0.race = none ∧ s.cmt.ch1.race = none := by simpa using hnone
    exact (Cmt.withoutRaces_of_none h0 h1).symm
  · rfl

/-- What one period of the peripheral clock makes of the CMT. -/
def Cmt.ticked (meets : Bool) (c : Cmt) : Cmt :=
  { c with ch0 := cmtTick meets (bitOf c.cmstr 0) c.ch0, ch1 := cmtTick meets (bitOf c.cmstr 1) c.ch1 }

/-- A period of the peripheral clock reaches nothing but the CMT. -/
theorem cmtPtick_eq (meets : Bool) (s : State) : ∃ c, cmtPtick meets s = { s with cmt := c } ∧
    (bitOf s.power.stbcr4 5 = false → c = s.cmt.withoutRaces.ticked meets) := by
  have hraces : clearRaces s = { s with cmt := s.cmt.withoutRaces } := by
    rw [← clearRaces_cmt]
    unfold clearRaces
    split <;> rfl
  unfold cmtPtick
  rw [hraces]
  dsimp only
  split
  · next hstop => exact ⟨_, rfl, fun hclock => absurd hstop (by simp [hclock])⟩
  · exact ⟨_, rfl, fun _ => rfl⟩

/-- Without the WDT a period of the peripheral clock is the CMT's. -/
theorem runPtick_cmt {s : State} (h : s.wdt.tme = false) (meets : Bool) : runPtick meets s = cmtPtick meets s := by
  obtain ⟨c, hc, -⟩ := cmtPtick_eq meets s
  rw [runPtick, hc]
  exact if_neg (by simp [h])

section
variable {meets : Bool} {c : CmtChannel}

theorem cmtTick_stopped : cmtTick meets false c = c := rfl

theorem cmtTick_prescaler (h : c.prescaler + 1 < cmtPeriod c) :
    cmtTick meets true c = { c with prescaler := c.prescaler + 1 } := by
  simp [cmtTick, h]

/-- A count clock, with its coincidence noted. -/
theorem cmtTick_count (h : cmtPeriod c ≤ c.prescaler + 1) :
    cmtTick meets true c = { cmtCount { c with prescaler := 0 } with
      race := if meets then some { old := c.cmcnt, matched := decide (c.cmcnt = c.cmcor) } else c.race } := by
  rw [cmtTick, if_pos rfl, if_neg (Nat.not_lt.2 h)]
  cases meets
  · rw [cmtCount]
    split <;> rfl
  · rfl

theorem cmtCount_match (h : c.cmcnt = c.cmcor) : cmtCount c = cmtMatch c := if_pos h

theorem cmtCount_up (h : c.cmcnt ≠ c.cmcor) : cmtCount c = { c with cmcnt := c.cmcnt + 1 } := if_neg h

theorem cmtCount_prescaler : (cmtCount c).prescaler = c.prescaler := by
  unfold cmtCount
  split <;> rfl

end

/-- Settles O53: a channel is stopped, before its count clock, or at it. -/
theorem compareMatch : Obligations.CompareMatch := by
  unfold Obligations.CompareMatch
  intro s meets rest hmode hrun hagenda hwdt hclock counts
  have hcounts (running : Bool) (c : CmtChannel) : counts running c (cmtTick meets running { c with race := none }) := by
    refine ⟨fun hstop => ?stopped, fun hon hearly => ?early, fun hon hcount => ?count⟩
    case stopped => rw [hstop, cmtTick_stopped]
    case early =>
      rw [hon, cmtTick_prescaler (c := { c with race := none }) hearly]
      exact ⟨rfl, rfl, rfl, rfl⟩
    case count =>
      rw [hon, cmtTick_count (c := { c with race := none }) hcount]
      refine ⟨cmtCount_prescaler, by cases meets <;> rfl, fun heq => ?_, fun hne => ?_⟩
      · rw [cmtCount_match (c := { c with race := none, prescaler := 0 }) heq]
        exact ⟨rfl, by simp [cmtMatch, bitOf_withBit]⟩
      · rw [cmtCount_up (c := { c with race := none, prescaler := 0 }) hne]
        exact ⟨rfl, rfl⟩
  obtain ⟨t, hstep, hspares⟩ := step_ptick hmode hagenda
  obtain ⟨c, hptick, hcmt⟩ := cmtPtick_eq meets (s.atEvent rest)
  rw [ptickEvent_run (s := s.atEvent rest) hrun, runPtick_cmt (s := s.atEvent rest) hwdt, hptick] at hspares
  have hticked : t.cmt = s.cmt.withoutRaces.ticked meets := by
    rw [hspares.devices.cmt, hcmt hclock, State.atEvent, clearRaces_cmt]
    rfl
  have hsame := hspares.same
  refine ⟨t, hstep, hsame.agenda, hspares.devices.wdt, hsame.regs, hsame.sr, hsame.pc, ?_, ?_⟩ <;> rw [hticked]
  · exact hcounts _ _
  · exact hcounts _ _

/-! ## The overflow of the WDT (rules R594 to R596) -/

/-- The WDT after a count clock that overflows: the flag of its mode is set. -/
def Wdt.overflowed (w : Wdt) : Wdt := wdtOverflow (wdtCount { w with prescaler := 0 }).1

theorem Wdt.overflowed_wtcnt {w : Wdt} (h : w.wtcnt = 0xFF) : w.overflowed.wtcnt = 0 := by
  change w.wtcnt + 1 = 0
  rw [h]
  rfl

theorem Wdt.overflowed_bit (w : Wdt) (k : Nat) :
    bitOf w.overflowed.wtcsr k = if k = (if w.watchdog then 4 else 3) then true else bitOf w.wtcsr k :=
  bitOf_withBit _ _ _ _ (by change (if w.watchdog then 4 else 3) < 8; split <;> decide)

theorem Wdt.overflowed_watchdog (w : Wdt) : w.overflowed.watchdog = w.watchdog := by
  rw [Wdt.watchdog, Wdt.overflowed_bit, if_neg (by split <;> decide)]
  rfl

/-- The state that such a count clock leaves, with what it made of the CMT. -/
def State.overflowed (s : State) (c : Cmt) : State := { s with cmt := c, wdt := s.wdt.overflowed }

/-- On the count clock after H'FF the WDT overflows, and in watchdog timer mode it resets the chip. -/
theorem runPtick_overflow {s : State} (hon : s.wdt.tme = true) (hfull : s.wdt.wtcnt = 0xFF)
    (hold : s.wdt.writtenFF = false) (hcount : wdtPeriod s.wdt ≤ s.wdt.prescaler + 1) (meets : Bool) :
    ∃ c, runPtick meets s =
      if s.wdt.watchdog then watchdogReset (s.overflowed c) else s.overflowed c := by
  obtain ⟨c, hc, -⟩ := cmtPtick_eq meets s
  refine ⟨c, ?_⟩
  have htick : wdtTick s.wdt = ((wdtCount { s.wdt with prescaler := 0 }).1, true) := by
    rw [wdtTick, if_neg (Nat.not_lt.2 hcount)]
    simp [wdtCount, hfull, hold]
  rw [runPtick, hc]
  dsimp only
  rw [if_pos hon, htick, if_pos rfl, ← Wdt.overflowed_watchdog s.wdt]
  rfl

section
variable {s : State}

theorem watchdogReset_powerOn (hmres : s.pins.mres = true) (h : bitOf s.wdt.wtcsr 5 = false) :
    watchdogReset s = wdtPowerOnReset s := by
  simp [watchdogReset, hmres, h]

theorem watchdogReset_manual (hmres : s.pins.mres = true) (h : bitOf s.wdt.wtcsr 5 = true) :
    watchdogReset s = { manualInit s with proc := .resetEntry .wdtManual } := by
  simp [watchdogReset, hmres, h]

/-- What the power-on reset by the WDT initialises, and the WDT and memory that it keeps. -/
theorem wdtPowerOnReset_facts (s : State) :
    (wdtPowerOnReset s).wdt = s.wdt ∧ (wdtPowerOnReset s).proc = .resetEntry .wdtPowerOn ∧
      (wdtPowerOnReset s).mask = 15 ∧ (wdtPowerOnReset s).intc = Intc.reset ∧ (wdtPowerOnReset s).cmt = Cmt.reset ∧
      (s.bsc.extWrite = none → s.keepsMemory (wdtPowerOnReset s)) := by
  have hmask := (powerOnInit_reset s).1
  have hspared := initialiseAll_spared s
  have hintc : (powerOnInit s).intc = Intc.reset := hspared.intc
  have hcmt : (powerOnInit s).cmt = Cmt.reset := hspared.devices.cmt
  have hmem : s.bsc.extWrite = none → s.keepsMemory (powerOnInit s) := fun hw a => by
    rw [powerOnInit_byteAt, cutExternalWrite_none hw]
  unfold wdtPowerOnReset
  generalize powerOnInit s = t at hmask hintc hcmt hmem
  exact ⟨rfl, rfl, hmask, hintc, hcmt, hmem⟩

/-- What a manual reset initialises, and the devices and memory that it keeps. -/
theorem manualInit_facts (s : State) :
    (manualInit s).wdt = s.wdt ∧ (manualInit s).mask = 15 ∧ (manualInit s).intc = Intc.reset ∧
      (manualInit s).bsc.cmncr = s.bsc.cmncr ∧ s.keepsMemory (manualInit s) :=
  have hkeeps := manualInit_devices s
  ⟨hkeeps.wdt, (manualInit_reset s).1, rfl, hkeeps.cmncr, hkeeps.byteAt⟩

end

/-- Settles O54: the three outcomes of an overflow, by the mode of the WDT and RSTS. -/
theorem watchdogOverflow : Obligations.WatchdogOverflow := by
  unfold Obligations.WatchdogOverflow
  intro s meets rest hmode hrun hagenda hmres hon hfull hold hcount
  obtain ⟨t, hstep, hspares⟩ := step_ptick hmode hagenda
  obtain ⟨c, hptick⟩ := runPtick_overflow (s := s.atEvent rest) hon hfull hold hcount meets
  rw [ptickEvent_run (s := s.atEvent rest) hrun, hptick] at hspares
  have hrsts : bitOf s.wdt.overflowed.wtcsr 5 = bitOf s.wdt.wtcsr 5 := by
    rw [Wdt.overflowed_bit, if_neg (by split <;> decide)]
  have hwtcnt (hw : t.wdt = s.wdt.overflowed) : t.wdt.wtcnt = 0 := by rw [hw, Wdt.overflowed_wtcnt hfull]
  have hothers (hw : t.wdt = s.wdt.overflowed) (k : Nat) (hk : k ≠ (if s.wdt.watchdog then 4 else 3)) :
      bitOf t.wdt.wtcsr k = bitOf s.wdt.wtcsr k := by
    rw [hw, Wdt.overflowed_bit, if_neg hk]
  have hflag (hw : t.wdt = s.wdt.overflowed) : bitOf t.wdt.wtcsr (if s.wdt.watchdog then 4 else 3) = true := by
    rw [hw, Wdt.overflowed_bit, if_pos rfl]
  cases hdog : s.wdt.watchdog with
  | false =>
    rw [show (s.atEvent rest).wdt.watchdog = false from hdog, if_neg Bool.false_ne_true] at hspares
    have hmem : s.keepsMemory t := hspares.same.byteAt
    rw [hdog] at hothers hflag
    exact ⟨t, hstep, hwtcnt hspares.devices.wdt, hothers hspares.devices.wdt, fun _ => hmem,
      fun _ => ⟨hflag hspares.devices.wdt, hspares.same.proc.trans hrun, hspares.same.pc, hmem⟩, nofun⟩
  | true =>
    rw [show (s.atEvent rest).wdt.watchdog = true from hdog, if_pos rfl] at hspares
    rw [hdog] at hothers hflag
    cases hsel : bitOf s.wdt.wtcsr 5 with
    | false =>
      rw [watchdogReset_powerOn (s := (s.atEvent rest).overflowed c) hmres (hrsts.trans hsel)] at hspares
      obtain ⟨hw, hproc, hmask, hintc, hcmt, hmem⟩ :=
        wdtPowerOnReset_facts ((s.atEvent rest).overflowed c)
      have hwdt : t.wdt = s.wdt.overflowed := hspares.devices.wdt.trans hw
      exact ⟨t, hstep, hwtcnt hwdt, hothers hwdt, fun h a => (hspares.same.byteAt a).trans (hmem h a), nofun,
        fun _ => ⟨hflag hwdt, hspares.same.mask.trans hmask, fun _ => ⟨hspares.same.proc.trans hproc,
          hspares.intc.trans hintc, hspares.devices.cmt.trans hcmt⟩, nofun⟩⟩
    | true =>
      rw [watchdogReset_manual (s := (s.atEvent rest).overflowed c) hmres (hrsts.trans hsel)] at hspares
      obtain ⟨hw, hmask, hintc, hcmncr, hmem⟩ :=
        manualInit_facts ((s.atEvent rest).overflowed c)
      have hwdt : t.wdt = s.wdt.overflowed := hspares.devices.wdt.trans hw
      have hkeeps : s.keepsMemory t := fun a => (hspares.same.byteAt a).trans (hmem a)
      exact ⟨t, hstep, hwtcnt hwdt, hothers hwdt, fun _ => hkeeps, nofun,
        fun _ => ⟨hflag hwdt, hspares.same.mask.trans hmask, nofun, fun _ => ⟨hspares.same.proc,
          hspares.intc.trans hintc, hspares.devices.cmncr.trans hcmncr, hkeeps⟩⟩⟩

/-! ## Software standby (rules R477, R597, R623) -/

section
variable {s : State}

/-- In software standby the selected edge of NMI starts the settling count, and the DTC, which has no clock, misses it. -/
theorem nmiPin_standby {high b : Bool} (hproc : s.proc = .standby b) (hedge : nmiEdge s.intc.nmie s.pins.nmi high = true) :
    (nmiPin high s).proc = .standby true ∧ (nmiPin high s).intc.nmiPending = true ∧ (nmiPin high s).regs = s.regs ∧
      (nmiPin high s).pc = s.pc := by
  simp [nmiPin, hedge, hproc, Proc.listens, dtcNmi, Proc.clocked, wakeUp]

/-- The overflow of the settling count gives the clocks back, and with MRES high the CPU goes on. -/
theorem settlingPtick_overflow (hfull : s.wdt.wtcnt = 0xFF) (hmres : s.pins.mres = true)
    (hcount : wdtPeriod s.wdt ≤ s.wdt.prescaler + 1) :
    settlingPtick s = { clocksBack { s with wdt := (wdtCount { s.wdt with prescaler := 0 }).1 } with proc := .run } := by
  have htick : wdtTick s.wdt = wdtCount { s.wdt with prescaler := 0 } := by rw [wdtTick, if_neg (Nat.not_lt.2 hcount)]
  have hzero : (wdtCount { s.wdt with prescaler := 0 }).1.wtcnt = 0 := by simp [wdtCount, hfull]
  unfold settlingPtick
  rw [htick]
  dsimp only
  rw [if_pos (by rw [decide_eq_true hfull, decide_eq_true hzero]; rfl)]
  exact if_pos hmres

end

/-- Settles O60: the edge on the NMI pin, and the overflow of the settling count. -/
theorem standbyWake : Obligations.StandbyWake := by
  unfold Obligations.StandbyWake
  intro s high meets rest hmode
  refine ⟨fun hproc hagenda hedge => ?edge, fun hproc hagenda hfull hmres hcount => ?overflow⟩
  case edge =>
    obtain ⟨t, hstep, hspares⟩ := step_pin hmode hagenda
    obtain ⟨hwakes, hpending, hregs, hpc⟩ := nmiPin_standby (s := s.atEvent rest) hproc hedge
    exact ⟨t, hstep, hspares.same.proc.trans hwakes, (congrArg Intc.nmiPending hspares.intc).trans hpending,
      hspares.same.regs.trans hregs, hspares.same.pc.trans hpc⟩
  case overflow =>
    obtain ⟨t, hstep, hspares⟩ := step_ptick hmode hagenda
    have hsettling : ptickEvent meets (s.atEvent rest) = settlingPtick (s.atEvent rest) := by
      simp [ptickEvent, show (s.atEvent rest).proc = .standby true from hproc]
    rw [hsettling, settlingPtick_overflow (s := s.atEvent rest) hfull hmres hcount] at hspares
    exact ⟨t, hstep, hspares.same.proc, by rw [hspares.devices.wdt]; rfl, by rw [hspares.devices.wdt]; rfl,
      hspares.same.pc, hspares.intc⟩

end Sys2Proof.Machine
end

section
/-! PROOF. The DTC's transfer modes (statements O56 and O57): addresses and counters after some data of a round, the round's end,
and the end of an activation. -/

namespace Sys2Proof.Machine

/-! ## Stepping an address (rule R565) -/

/-- What `n` steps add to an address. -/
def dtcStride (m : BitVec 2) (z : Size) (n : Nat) : Word :=
  if m = 2 then BitVec.ofNat 32 (n * z.bytes) else if m = 3 then -BitVec.ofNat 32 (n * z.bytes) else 0

theorem dtcStep_eq_add (m : BitVec 2) (z : Size) (a : Word) : dtcStep m z a = a + dtcStride m z 1 := by
  unfold dtcStep dtcStride
  rw [Nat.one_mul]
  split
  · rfl
  · split
    · exact BitVec.sub_eq_add_neg _ _
    · exact (BitVec.add_zero a).symm

theorem dtcUnstep_eq_sub (m : BitVec 2) (z : Size) (n : Nat) (a : Word) : dtcUnstep m z n a = a - dtcStride m z n := by
  unfold dtcUnstep dtcStride
  split
  · rfl
  · split
    · rw [BitVec.sub_eq_add_neg, BitVec.neg_neg]
    · exact (BitVec.sub_zero a).symm

theorem dtcStride_succ (m : BitVec 2) (z : Size) (n : Nat) :
    dtcStride m z (n + 1) = dtcStride m z n + dtcStride m z 1 := by
  unfold dtcStride
  rw [Nat.one_mul, Nat.add_mul, Nat.one_mul, BitVec.ofNat_add]
  split
  · rfl
  · split
    · rw [BitVec.neg_add, BitVec.sub_eq_add_neg]
    · rfl

/-- Fixed, up or down by the size of a datum. -/
theorem dtcStep_modes (z : Size) (a : Word) : dtcStep 0 z a = a ∧ dtcStep 1 z a = a ∧
    (dtcStep 2 z a - a).toNat = z.bytes ∧ (a - dtcStep 3 z a).toNat = z.bytes := by
  have hbytes : (BitVec.ofNat 32 z.bytes).toNat = z.bytes := by cases z <;> rfl
  refine ⟨rfl, rfl, ?_, ?_⟩
  · change (a + BitVec.ofNat 32 z.bytes - a).toNat = z.bytes
    rw [BitVec.add_comm, BitVec.add_sub_cancel, hbytes]
  · change (a - (a - BitVec.ofNat 32 z.bytes)).toNat = z.bytes
    rw [sub_sub_self, hbytes]

/-! ## The counter CRA (rules R557, R567) -/

/-- CRAH, the number of data of a round as it is stored. -/
def DtcInfo.crah (i : DtcInfo) : Byte := i.cra.extractLsb' 8 8

theorem DtcInfo.withCral_crah (i : DtcInfo) (v : Byte) : (i.withCral v).crah = i.crah :=
  BitVec.extractLsb'_append_eq_left

theorem DtcInfo.withCral_cral (i : DtcInfo) (v : Byte) : (i.withCral v).cral = v :=
  BitVec.extractLsb'_append_eq_right

theorem DtcInfo.cra_eq (i : DtcInfo) : i.cra = i.crah ++ i.cral :=
  (BitVec.extractLsb'_append_extractLsb' (w := 8) (len := 8)).symm

theorem DtcInfo.length_eq (i : DtcInfo) : i.length = if i.crah = 0 then 256 else i.crah.toNat := rfl

theorem DtcInfo.length_pos (i : DtcInfo) : 0 < i.length := by
  rw [DtcInfo.length_eq]
  split
  · decide
  · next h => exact Nat.pos_of_ne_zero fun hz => h (BitVec.eq_of_toNat_eq hz)

/-- CRAL, counted down from CRAH, is 1 before the last datum of a round alone. -/
theorem countdown_eq_one_iff {i : DtcInfo} (h : i.cral = i.crah) {k : Nat} (hk : k < i.length) :
    i.cral - BitVec.ofNat 8 k = 1 ↔ k + 1 = i.length := by
  have hlt := i.crah.isLt
  rw [h, ← BitVec.toNat_inj, BitVec.toNat_sub, BitVec.toNat_ofNat]
  rw [DtcInfo.length_eq] at hk ⊢
  change _ = 1 ↔ _
  split at hk
  · next hz =>
    rw [if_pos hz, hz]
    change (2 ^ 8 - k % 2 ^ 8 + 0) % 2 ^ 8 = 1 ↔ _
    omega
  · next hz =>
    rw [if_neg hz]
    omega

/-! ## Inside a round -/

/-- The transfer information after `k` data, none of them the last of its round: both addresses stepped, CRAL counted
down. -/
def DtcInfo.afterData (i : DtcInfo) (k : Nat) : DtcInfo :=
  { i with
    sar := i.sar + dtcStride i.sm i.size k
    dar := i.dar + dtcStride i.dm i.size k
    cra := i.crah ++ (i.cral - BitVec.ofNat 8 k) }

/-- The transfer information after a whole round: the area's address is its first one again. -/
def DtcInfo.afterRound (i : DtcInfo) : DtcInfo :=
  { i with
    sar := if i.dts then i.sar else i.sar + dtcStride i.sm i.size i.length
    dar := if i.dts then i.dar + dtcStride i.dm i.size i.length else i.dar
    cra := i.crah ++ i.crah }

section
variable {i : DtcInfo} {k : Nat}

theorem dtcStride_zero (m : BitVec 2) (z : Size) : dtcStride m z 0 = 0 := by
  unfold dtcStride
  rw [Nat.zero_mul]
  split
  · rfl
  · split <;> rfl

theorem DtcInfo.afterData_zero (i : DtcInfo) : i.afterData 0 = i := by
  unfold DtcInfo.afterData
  rw [dtcStride_zero, dtcStride_zero, BitVec.sub_zero, ← DtcInfo.cra_eq, add_zero, add_zero]

theorem DtcInfo.afterData_crah (i : DtcInfo) (k : Nat) : (i.afterData k).crah = i.crah :=
  BitVec.extractLsb'_append_eq_left

theorem DtcInfo.afterData_cral (i : DtcInfo) (k : Nat) : (i.afterData k).cral = i.cral - BitVec.ofNat 8 k :=
  BitVec.extractLsb'_append_eq_right

theorem DtcInfo.afterData_length (i : DtcInfo) (k : Nat) : (i.afterData k).length = i.length := by
  rw [DtcInfo.length_eq, DtcInfo.afterData_crah, DtcInfo.length_eq]

/-- A datum that does not end the round. -/
theorem DtcInfo.afterData_succ (i : DtcInfo) (k : Nat) :
    (i.afterData k).stepBoth.withCral ((i.afterData k).cral - 1) = i.afterData (k + 1) := by
  have hsar : dtcStep i.sm i.size (i.afterData k).sar = (i.afterData (k + 1)).sar := by
    rw [dtcStep_eq_add, DtcInfo.afterData, DtcInfo.afterData, BitVec.add_assoc, ← dtcStride_succ]
  have hdar : dtcStep i.dm i.size (i.afterData k).dar = (i.afterData (k + 1)).dar := by
    rw [dtcStep_eq_add, DtcInfo.afterData, DtcInfo.afterData, BitVec.add_assoc, ← dtcStride_succ]
  have hcra : (i.afterData k).crah ++ ((i.afterData k).cral - 1) = (i.afterData (k + 1)).cra := by
    rw [DtcInfo.afterData_crah, DtcInfo.afterData_cral, BitVec.sub_sub, DtcInfo.afterData, BitVec.ofNat_add]
    rfl
  calc (i.afterData k).stepBoth.withCral ((i.afterData k).cral - 1)
    _ = { i with
          sar := dtcStep i.sm i.size (i.afterData k).sar
          dar := dtcStep i.dm i.size (i.afterData k).dar
          cra := (i.afterData k).crah ++ ((i.afterData k).cral - 1) } := rfl
    _ = i.afterData (k + 1) := by rw [hsar, hdar, hcra]; rfl

/-- As many steps back as were made restore an address. -/
theorem dtcUnstep_stride (m : BitVec 2) (z : Size) (n : Nat) (a : Word) : dtcUnstep m z n (a + dtcStride m z n) = a := by
  rw [dtcUnstep_eq_sub, BitVec.add_sub_cancel]

/-- Data that do not end the round come one after another. -/
theorem iterate_eq_afterData {f : DtcInfo → DtcInfo} {n : Nat}
    (h : ∀ k, k < n → f (i.afterData k) = i.afterData (k + 1)) (hk : k ≤ n) : f^[k] i = i.afterData k := by
  induction k with
  | zero => exact i.afterData_zero.symm
  | succ k ih => rw [Function.iterate_succ_apply', ih (Nat.le_of_succ_le hk), h k hk]

/-! ## The end of a round (rules R567, R568) -/

theorem afterRepeat_goesOn (h : (i.afterData k).cral ≠ 1) : afterRepeat (i.afterData k) = (i.afterData (k + 1), false) := by
  rw [afterRepeat, if_neg h, DtcInfo.afterData_succ]

theorem DtcInfo.afterRound_source (h : i.dts = true) :
    i.afterRound = { i with dar := i.dar + dtcStride i.dm i.size i.length, cra := i.crah ++ i.crah } := by
  rw [DtcInfo.afterRound, if_pos h, if_pos h]

theorem DtcInfo.afterRound_destination (h : i.dts = false) :
    i.afterRound = { i with sar := i.sar + dtcStride i.sm i.size i.length, cra := i.crah ++ i.crah } := by
  rw [DtcInfo.afterRound, h, if_neg Bool.false_ne_true, if_neg Bool.false_ne_true]

/-- The last datum of a round of repeat mode steps one address and takes the other back. -/
theorem afterRepeat_ends (h : (i.afterData k).cral = 1) (hk : k + 1 = i.length) :
    afterRepeat (i.afterData k) = (i.afterRound, true) := by
  have hback : (i.afterData k).length - 1 = k := by rw [DtcInfo.afterData_length]; omega
  have hstep (m : BitVec 2) (a : Word) : dtcStep m i.size (a + dtcStride m i.size k) = a + dtcStride m i.size i.length := by
    rw [dtcStep_eq_add, BitVec.add_assoc, ← dtcStride_succ, hk]
  rw [afterRepeat, if_pos h, hback]
  cases hdts : i.dts with
  | true =>
    rw [if_pos (show (i.afterData k).dts = true from hdts), DtcInfo.afterRound_source hdts, ← hstep, ← i.afterData_crah k]
    calc _ = (({ i with
            sar := dtcUnstep i.sm i.size k (i.sar + dtcStride i.sm i.size k)
            dar := dtcStep i.dm i.size (i.dar + dtcStride i.dm i.size k)
            cra := (i.afterData k).crah ++ (i.afterData k).crah } : DtcInfo), true) := rfl
      _ = _ := by rw [dtcUnstep_stride]
  | false =>
    rw [if_neg (show ¬ (i.afterData k).dts = true by rw [show (i.afterData k).dts = false from hdts]; decide),
      DtcInfo.afterRound_destination hdts, ← hstep, ← i.afterData_crah k]
    calc _ = (({ i with
            sar := dtcStep i.sm i.size (i.sar + dtcStride i.sm i.size k)
            dar := dtcUnstep i.dm i.size k (i.dar + dtcStride i.dm i.size k)
            cra := (i.afterData k).crah ++ (i.afterData k).crah } : DtcInfo), true) := rfl
      _ = _ := by rw [dtcUnstep_stride]

/-- The end of a block takes the area's address back, reloads CRAL and counts CRB. -/
theorem afterBlock_ends (i : DtcInfo) :
    (afterBlock (i.afterData i.length)).1 = { i.afterRound with crb := i.crb - 1 } := by
  rw [afterBlock, i.afterData_length]
  cases hdts : i.dts with
  | true =>
    rw [if_pos (show (i.afterData i.length).dts = true from hdts), DtcInfo.afterRound_source hdts,
      ← i.afterData_crah i.length]
    calc _ = ({ i with
            sar := dtcUnstep i.sm i.size i.length (i.sar + dtcStride i.sm i.size i.length)
            dar := i.dar + dtcStride i.dm i.size i.length
            cra := (i.afterData i.length).crah ++ (i.afterData i.length).crah
            crb := i.crb - 1 } : DtcInfo) := rfl
      _ = _ := by rw [dtcUnstep_stride]
  | false =>
    rw [if_neg (show ¬ (i.afterData i.length).dts = true by rw [show (i.afterData _).dts = false from hdts]; decide),
      DtcInfo.afterRound_destination hdts, ← i.afterData_crah i.length]
    calc _ = ({ i with
            sar := i.sar + dtcStride i.sm i.size i.length
            dar := dtcUnstep i.dm i.size i.length (i.dar + dtcStride i.dm i.size i.length)
            cra := (i.afterData i.length).crah ++ (i.afterData i.length).crah
            crb := i.crb - 1 } : DtcInfo) := rfl
      _ = _ := by rw [dtcUnstep_stride]

/-- What a whole round leaves of the two addresses (rules R567, R568). -/
theorem DtcInfo.afterRound_addresses (i : DtcInfo) :
    (i.dts = true → i.afterRound.sar = i.sar) ∧ (i.dts = false → i.afterRound.dar = i.dar) ∧
      (i.dts = true → i.dm = 2 → i.afterRound.dar - i.dar = BitVec.ofNat 32 (i.length * i.size.bytes)) ∧
      (i.dts = false → i.sm = 2 → i.afterRound.sar - i.sar = BitVec.ofNat 32 (i.length * i.size.bytes)) := by
  have hup (z : Size) (n : Nat) (a : Word) : a + dtcStride 2 z n - a = BitVec.ofNat 32 (n * z.bytes) :=
    add_sub_cancel_left a _
  refine ⟨fun h => ?_, fun h => ?_, fun h hm => ?_, fun h hm => ?_⟩
  · rw [DtcInfo.afterRound_source h]
  · rw [DtcInfo.afterRound_destination h]
  · rw [DtcInfo.afterRound_source h, hm, hup]
  · rw [DtcInfo.afterRound_destination h, hm, hup]

end

/-- Settles O56: one datum of normal mode by the definition of the step, a round of repeat mode datum by datum. -/
theorem dtcNormalAndRepeat : Obligations.DtcNormalAndRepeat := by
  unfold Obligations.DtcNormalAndRepeat
  intro i
  refine ⟨?normal, fun hcral => ?repeats⟩
  case normal =>
    have hcra : (i.cra - 1).toNat = (i.cra.toNat + 65535) % 65536 := by
      rw [BitVec.toNat_sub, Nat.add_comm]
      rfl
    have hend : i.cra - 1 = 0 ↔ i.cra = 1 := sub_eq_zero
    exact ⟨rfl, rfl, hcra, rfl, decide_eq_true_iff.trans hend, dtcStep_modes⟩
  case repeats =>
    intro after done
    have hone {k : Nat} (hk : k < i.length) : (i.afterData k).cral = 1 ↔ k + 1 = i.length := by
      rw [DtcInfo.afterData_cral, countdown_eq_one_iff hcral hk]
    obtain ⟨n, hn⟩ : ∃ n, n + 1 = i.length := ⟨i.length - 1, Nat.sub_add_cancel i.length_pos⟩
    have hafter {k : Nat} (hk : k < i.length) : after k = i.afterData k := by
      refine iterate_eq_afterData (n := n) (fun k hk => ?_) (by omega)
      rw [afterRepeat_goesOn fun h => by have := (hone (by omega)).1 h; omega]
    have hdone : done = i.afterRound := by
      have hlast : done = (afterRepeat (after n)).1 := by
        change after i.length = _
        rw [← hn]
        exact Function.iterate_succ_apply' _ _ _
      rw [hlast, hafter (by omega), afterRepeat_ends ((hone (by omega)).2 hn) hn]
    have hcra : i.afterRound.cra = i.cra := by
      rw [i.cra_eq, hcral]
      rfl
    obtain ⟨hsar, hdar, hup, hup'⟩ := i.afterRound_addresses
    rw [hdone]
    refine ⟨hsar, hdar, hup, hup', hcra, rfl, rfl, rfl, fun k hk => ?_⟩
    rw [hafter hk, ← hone hk]
    by_cases hend : (i.afterData k).cral = 1
    · rw [afterRepeat_ends hend ((hone hk).1 hend)]
      exact iff_of_true rfl hend
    · rw [afterRepeat_goesOn hend]
      exact iff_of_false Bool.false_ne_true hend

/-! ## The chain and the end of an activation (rules R569, R570, R576) -/

section
variable {s : State} {a : DtcActivity}

theorem chains_iff {rchne zero : Bool} {i : DtcInfo} : chains rchne zero i = true ↔
    i.chne = true ∧ (i.chns = true → zero = true ∧ (i.mode = 1 → rchne = true)) := by
  rw [chains, Bool.and_eq_true, Bool.or_eq_true]
  refine and_congr_right fun _ => ?_
  cases i.chns with
  | false => exact iff_of_true (.inl rfl) nofun
  | true =>
    by_cases hmode : i.mode = 1
    · simp [hmode]
    · rw [if_neg hmode]
      exact ⟨fun h _ => ⟨h.resolve_left Bool.false_ne_true, fun hm => absurd hm hmode⟩, fun h => .inr (h rfl).1⟩

theorem cpuInterrupt_iff {zero : Bool} {i : DtcInfo} :
    cpuInterrupt zero i = true ↔ i.disel = true ∨ (i.mode ≠ 1 ∧ zero = true) := by
  simp [cpuInterrupt]

theorem finishBlock_stopped (h : a.stopping = true) : finishBlock a s = .ok (stopActivation s) := if_pos h

theorem finishBlock_chained (hstop : a.stopping = false) (hchain : chains s.dtc.rchne a.zero a.info = true)
    (hlimit : a.chained < Config.dtcChainLimit) :
    finishBlock a s =
      .ok (s.setActivity { a with base := a.base + 16, phase := .info 0, chained := a.chained + 1, hold := .free }) := by
  rw [finishBlock, hstop, if_neg Bool.false_ne_true, if_pos hchain, if_neg (Nat.not_le.2 hlimit)]

/-- An activation that ends leaves what `endOfActivation` does, in a DTC with no activity. -/
theorem finishBlock_ends (hstop : a.stopping = false) (hchain : chains s.dtc.rchne a.zero a.info = false) :
    ∃ d, finishBlock a s = .ok { endOfActivation a.vec (cpuInterrupt a.zero a.info) a.touched s with dtc := d } ∧
      d.activity = none ∧
      ∀ id, d.enableReg id = (endOfActivation a.vec (cpuInterrupt a.zero a.info) a.touched s).dtc.enableReg id := by
  rw [finishBlock, hstop, if_neg Bool.false_ne_true, hchain, if_neg Bool.false_ne_true]
  exact ⟨_, rfl, rfl, fun id => by cases id <;> rfl⟩

theorem enableReg_setEnableReg_ne (d : Dtc) {id id' : RegId} (v : Half) (h : id' ≠ id) :
    (d.setEnableReg id v).enableReg id' = d.enableReg id' := by
  unfold Dtc.setEnableReg
  split
  case h_6 => rfl
  all_goals
    unfold Dtc.enableReg
    split <;> simp_all

/-- A bit cleared in a DTC enable register; what is no such register holds 0. -/
theorem bitOf_enableReg_cleared (d : Dtc) (id : RegId) {k : Nat} (hk : k < 16) (j : Nat) :
    bitOf ((d.setEnableReg id (withBit (d.enableReg id) k false)).enableReg id) j =
      if j = k then false else bitOf (d.enableReg id) j := by
  rw [← bitOf_withBit (d.enableReg id) k j false hk]
  unfold Dtc.setEnableReg
  split
  case h_6 =>
    have hzero : d.enableReg id = 0 := by
      unfold Dtc.enableReg
      split <;> simp_all
    rw [hzero, bitOf_withBit _ _ _ _ hk]
    simp [bitOf]
  all_goals rfl

/-- A DTCE bit of the table is a bit of a register. -/
theorem dtce_lt {vec k : Nat} {id : RegId} (h : (sourceOf vec).bind (fun r => r.dtce) = some (id, k)) : k < 16 := by
  have htable : ∀ r ∈ intSources, r.dtce.all (fun p => decide (p.2 < 16)) = true := by decide
  obtain ⟨r, hr, hdtce⟩ := Option.bind_eq_some_iff.1 h
  have hrow := htable r (List.mem_of_find?_eq_some hr)
  rw [hdtce] at hrow
  exact of_decide_eq_true hrow

/-- Clearing the DTCE bit of a source clears that bit, and no other. -/
theorem clearDtce_cleared {r : IntSource} (hr : sourceOf a.vec = some r) (hdtce : r.dtce ≠ none) :
    (clearDtce a.vec s).dtceOf r = false := by
  obtain ⟨⟨id, k⟩, hid⟩ := Option.ne_none_iff_exists'.1 hdtce
  have hbit : (sourceOf a.vec).bind (fun r => r.dtce) = some (id, k) := by rw [hr]; exact hid
  rw [clearDtce, hbit, State.dtceOf, hid]
  exact (bitOf_enableReg_cleared _ _ (dtce_lt hbit) k).trans (if_pos rfl)

theorem clearDtce_kept {q : IntSource} (h : ∀ r, sourceOf a.vec = some r → r.dtce ≠ q.dtce) :
    (clearDtce a.vec s).dtceOf q = s.dtceOf q := by
  unfold clearDtce
  split
  · next id k hbit =>
    obtain ⟨r, hr, hid⟩ := Option.bind_eq_some_iff.1 hbit
    have hne : q.dtce ≠ some (id, k) := fun hq => h r hr (hid.trans hq.symm)
    unfold State.dtceOf
    split
    · rfl
    · next id' k' hq =>
      by_cases hreg : id' = id
      · subst hreg
        have hk : k' ≠ k := fun e => hne (e ▸ hq)
        exact (bitOf_enableReg_cleared _ _ (dtce_lt hbit) k').trans (if_neg hk)
      · rw [enableReg_setEnableReg_ne _ _ hreg]
  · rfl

theorem clearDtce_flags (vec : Nat) (s : State) :
    (clearDtce vec s).intc = s.intc ∧ (clearDtce vec s).cmt = s.cmt ∧ (clearDtce vec s).lines = s.lines := by
  unfold clearDtce
  split <;> exact ⟨rfl, rfl, rfl⟩

theorem clearSource_dtc (vec : Nat) (touched : Bool) (s : State) : (clearSource vec touched s).dtc = s.dtc := by
  unfold clearSource
  repeat' split
  all_goals rfl

/-- The flag of an IRQ or of a channel of the CMT is cleared (rules R486, R570). -/
theorem clearSource_flags (vec : Nat) (touched : Bool) (s : State) :
    (∀ n : Fin 4, vec = 64 + n.val → bitOf (clearSource vec touched s).intc.irqF n.val = false) ∧
      (vec = 184 → bitOf (clearSource vec touched s).cmt.ch0.cmcsr 7 = false) ∧
      (vec = 188 → bitOf (clearSource vec touched s).cmt.ch1.cmcsr 7 = false) := by
  refine ⟨fun n hvec => ?_, fun hvec => ?_, fun hvec => ?_⟩ <;> subst hvec
  · rw [clearSource, if_pos (by omega), Nat.add_sub_cancel_left]
    exact (bitOf_withBit _ _ _ _ n.isLt).trans (if_pos rfl)
  · exact (bitOf_withBit s.cmt.ch0.cmcsr 7 7 false (by decide)).trans (if_pos rfl)
  · exact (bitOf_withBit s.cmt.ch1.cmcsr 7 7 false (by decide)).trans (if_pos rfl)

end

/-- Settles O57: a block datum by datum, then the ways a block's write-back goes on. -/
theorem dtcBlockAndEnd : Obligations.DtcBlockAndEnd := by
  unfold Obligations.DtcBlockAndEnd
  refine ⟨?block, ?writeBack⟩
  case block =>
    intro i once done
    have hdone : done = { i.afterRound with crb := i.crb - 1 } := by
      have hdata : once^[i.length] i = i.afterData i.length :=
        iterate_eq_afterData (fun k _ => i.afterData_succ k) le_rfl
      exact (congrArg (fun j => (afterBlock j).1) hdata).trans (afterBlock_ends i)
    obtain ⟨hsar, hdar, hup, hup'⟩ := i.afterRound_addresses
    rw [hdone]
    exact ⟨hsar, hdar, hup, hup', BitVec.extractLsb'_append_eq_right, BitVec.sub_add_cancel _ _, rfl, rfl⟩
  case writeBack =>
    intro a s i goesOn interrupts keepsEnables keepsFlags
    have hchains : chains s.dtc.rchne a.zero a.info = true ↔ goesOn := chains_iff
    refine ⟨fun hstop => ?stopped, fun hstop hon hlimit => ?chained, fun hstop hend => ?ends⟩
    case stopped =>
      exact ⟨_, finishBlock_stopped hstop, rfl, ⟨rfl, rfl, rfl⟩, rfl, rfl, rfl, rfl, rfl⟩
    case chained =>
      exact ⟨_, finishBlock_chained hstop (hchains.2 hon) hlimit, rfl, ⟨rfl, rfl, rfl⟩, rfl, rfl, rfl, rfl, rfl⟩
    case ends =>
      obtain ⟨d, hfinish, hidle, henables⟩ :=
        finishBlock_ends (s := s) hstop (Bool.eq_false_iff.2 fun h => hend (hchains.1 h))
      have hinterrupts : cpuInterrupt a.zero a.info = true ↔ interrupts := cpuInterrupt_iff
      refine ⟨_, hfinish, hidle, fun hint => ?_, fun hint => ?_⟩
      · rw [endOfActivation, if_pos (hinterrupts.2 hint)] at henables ⊢
        have hdtce (q : IntSource) :
            ({ clearDtce a.vec s with dtc := d } : State).dtceOf q = (clearDtce a.vec s).dtceOf q := by
          simp only [State.dtceOf, henables]
        exact ⟨clearDtce_flags a.vec s, fun r hr hne => (hdtce r).trans (clearDtce_cleared hr hne),
          fun q hq => (hdtce q).trans (clearDtce_kept hq)⟩
      · rw [endOfActivation, if_neg fun h => hint (hinterrupts.1 h)] at henables ⊢
        rw [clearSource_dtc] at henables
        exact ⟨⟨henables .dtcera, henables .dtcerb, henables .dtcerc, henables .dtcerd, henables .dtcere⟩,
          clearSource_flags a.vec a.touched s⟩

end Sys2Proof.Machine
end

section
/-! PROOF. The user breaks of channel A (statement O42): the cycles an exact address matches, what one match of channel A
records, the boundary that fetches at the address, and the data accesses of a plain operand. -/

namespace Sys2Proof.Machine

section
variable {s t u : State} {w : Half} {i : Instr}

/-! ## The match of one channel (rules R510 to R512) -/

/-- A channel whose cycle select is off matches nothing. -/
theorem channelMatches_off {ch : UbcChannel} (hoff : ch.bbr = 0) (dbe : Bool) (c : BusCycle) (undecided : Bool) :
    channelMatches ch dbe c undecided = false := by
  simp [channelMatches, hoff]

/-- A mask of ones keeps every bit. -/
theorem and_ones (x : Word) : x &&& 4294967295#32 = x := BitVec.and_allOnes

/-- BBR = H'0054, an L-bus fetch of any size: the address decides. -/
theorem channelMatches_fetch {ch : UbcChannel} (hset : ch.bbr = 0x0054) (hexact : ch.bamr = 0) (a : Word) :
    channelMatches ch false (fetchCycle a) false = decide (a = ch.bar) := by
  have hid : bitOf (1#2) 0 = true := by decide
  simp [channelMatches, hset, hexact, fetchCycle, hid, and_ones, BitVec.xor_eq_zero_iff]

/-- The data cycle of the CPU on the L bus. -/
def dataCycle (write : Bool) (z : Size) (a v : Word) : BusCycle :=
  { ibus := false, dtc := false, fetch := false, write := write, size := z, addr := a, data := v }

/-- BBR = H'006C, an L-bus data access of any size and direction: the address bits of its size decide. -/
theorem channelMatches_data {ch : UbcChannel} (hset : ch.bbr = 0x006C) (hexact : ch.bamr = 0) (write : Bool) (z : Size)
    (a v : Word) (undecided : Bool) :
    channelMatches ch false (dataCycle write z a v) undecided = decide ((a ^^^ ch.bar) &&& cmpMask z = 0) := by
  have hid : bitOf (2#2) 1 = true := by decide
  have hread : bitOf (3#2) 0 = true := by decide
  have hwrite : bitOf (3#2) 1 = true := by decide
  cases write with
  | false => simp [channelMatches, hset, hexact, dataCycle, hid, hread, and_ones]
  | true => simp [channelMatches, hset, hexact, dataCycle, hid, hwrite, and_ones]

/-- Every size compares the longword's address. -/
theorem bitOf_cmpMask (z : Size) {k : Nat} (hlow : 2 ≤ k) (hk : k < 32) : bitOf (cmpMask z) k = true := by
  cases z <;> (revert k; decide)

/-- Addresses that every size compares equal are of one longword. -/
theorem longword_eq_of_compare {z : Size} {a b : Word} (h : (a ^^^ b) &&& cmpMask z = 0) : b >>> 2 = a >>> 2 := by
  refine BitVec.eq_of_getLsbD_eq fun k hk => ?_
  rw [BitVec.getLsbD_ushiftRight, BitVec.getLsbD_ushiftRight]
  by_cases hin : 2 + k < 32
  · have hbit := (and_eq_zero_iff_bits _ _).1 h (2 + k) hin
    rw [bitOf_cmpMask z (Nat.le_add_right 2 k) hin, Bool.and_true, bitOf_xor, bne_eq_false_iff_eq] at hbit
    exact hbit.symm
  · rw [BitVec.getLsbD_of_ge _ _ (Nat.not_lt.1 hin), BitVec.getLsbD_of_ge _ _ (Nat.not_lt.1 hin)]

/-! ## Channel A alone -/

/-- The UBC has its clock, no replaced setting still applies, channel B is off and channel A compares the whole address. -/
structure ChannelAExact (s : State) : Prop where
  on : s.ubcOn = true
  lag : s.ubc.lag = []
  exact : s.ubc.regs.a.bamr = 0
  off : s.ubc.regs.b.bbr = 0

theorem ChannelAExact.congr (h : ChannelAExact s) (hregs : t.ubc.regs = s.ubc.regs) (hlag : t.ubc.lag = s.ubc.lag)
    (hpower : t.power = s.power) : ChannelAExact t where
  on := by rw [State.ubcOn, hpower]; exact h.on
  lag := hlag.trans h.lag
  exact := by rw [hregs]; exact h.exact
  off := by rw [hregs]; exact h.off

/-- With channel A set the UBC is not quiet. -/
theorem ChannelAExact.not_quiet (h : ChannelAExact s) (hset : s.ubc.regs.a.bbr ≠ 0) : s.ubcQuiet = false := by
  have hidle : s.ubc.regs.idle = false := by rw [UbcRegs.idle, decide_eq_false hset, Bool.false_and]
  rw [State.ubcQuiet, h.on, hidle]
  rfl

/-- The settings as last written are those that match. -/
theorem ChannelAExact.effective (h : ChannelAExact s) : ubcEffective s = (s.ubc.regs, s) := by
  simp [ubcEffective, h.lag]

/-- What a cycle on the L bus records that channel A alone may have matched. -/
def noteA (hit : Bool) (s : State) : State := ubcNote false (fun m => { m with ca := m.ca || hit }) s

/-- A cycle that channel B misses, outside a sequence: channel A's match alone sets its flag and requests the break
(rules R516, R518). -/
theorem ubcMet_channelA {r : UbcRegs} (hseq : r.seq = false) (hida : r.ubida = false) (together hit : Bool) (s : State) :
    ubcMet r false false together hit false s = ((hit, false), noteA hit s) := by
  simp [ubcMet, hseq, hida, noteA]

/-- The flags are as they were where channel A missed. -/
theorem noteA_miss (s : State) : (noteA false s).ubc.live = s.ubc.live := by
  simp [noteA, ubcNote]

theorem noteA_hit (s : State) : (noteA true s).ubc.live.ca = true := by
  simp [noteA, ubcNote]

theorem noteA_only (hit : Bool) (s : State) : OnlyUbc s (noteA hit s) := ubcNote_only _ _ s

/-! ## The fetch at the address (rules R512, R513, R518) -/

/-- The hits of a fetch at channel A's address: before execution, or after it with PCBA = 1. -/
def hitsA (r : UbcRegs) : FetchHits :=
  { regs := r, both := false, preA := !r.pcba, preB := false, postA := r.pcba, postB := false }

theorem ChannelAExact.fetchHits (h : ChannelAExact s) (hset : s.ubc.regs.a.bbr = 0x0054)
    (heven : bitOf s.ubc.regs.a.bar 0 = false) : ubcFetchHits s.ubc.regs.a.bar s = (hitsA s.ubc.regs, s) := by
  have hquiet : s.ubcQuiet = false := h.not_quiet (by rw [hset]; decide)
  simp [ubcFetchHits, hquiet, heven, h.effective, channelMatches_fetch hset h.exact, channelMatches_off h.off, hitsA]

/-- The fetch of another address misses. -/
theorem ChannelAExact.misses (h : ChannelAExact s) (hset : s.ubc.regs.a.bbr = 0x0054) {a : Word}
    (hother : a ≠ s.ubc.regs.a.bar) : s.ubcMisses a = true := by
  simp [State.ubcMisses, h.lag, channelMatches_fetch hset h.exact, channelMatches_off h.off, hother]

/-- A break before execution: the flag is set and the break is requested. -/
theorem ubcPre_hitsA {r : UbcRegs} (hbrcr : r.brcr = 0) (s : State) : ubcPre (hitsA r) s = (true, noteA true s) := by
  have hpcba : r.pcba = false := by rw [UbcRegs.pcba, hbrcr]; decide
  have hseq : r.seq = false := by rw [UbcRegs.seq, hbrcr]; decide
  have hida : r.ubida = false := by rw [UbcRegs.ubida, hbrcr]; decide
  simp [ubcPre, ubcFetchMet, hitsA, hpcba, ubcMet_channelA hseq hida]

/-- With PCBA = 1 nothing is recorded before the instruction. -/
theorem hitsA_noPre {r : UbcRegs} (hbrcr : r.brcr = 0x400) : (hitsA r).preA = false := by
  have hpcba : r.pcba = true := by rw [UbcRegs.pcba, hbrcr]; decide
  rw [hitsA, hpcba]
  rfl

/-- With PCBA = 1 the flag is set and the break requested as the instruction runs. -/
theorem ubcPost_hitsA {r : UbcRegs} (hbrcr : r.brcr = 0x400) (s : State) :
    ubcPost (hitsA r) s = requestBreak (noteA true s) := by
  have hpcba : r.pcba = true := by rw [UbcRegs.pcba, hbrcr]; decide
  have hseq : r.seq = false := by rw [UbcRegs.seq, hbrcr]; decide
  have hida : r.ubida = false := by rw [UbcRegs.ubida, hbrcr]; decide
  simp [ubcPost, ubcFetchMet, hitsA, hpcba, ubcMet_channelA hseq hida]

/-! ## The boundary -/

/-- A boundary changes of the UBC what matching changes, not the settings. -/
theorem State.atBoundary_settings (s : State) :
    s.atBoundary.ubc.regs = s.ubc.regs ∧ s.atBoundary.ubc.lag = s.ubc.lag ∧ s.atBoundary.power = s.power := by
  unfold State.atBoundary ubcBoundary
  split
  · exact ⟨rfl, rfl, rfl⟩
  · dsimp only
    split
    · exact ⟨rfl, rfl, rfl⟩
    · split <;> exact ⟨rfl, rfl, rfl⟩

theorem ChannelAExact.atBoundary (h : ChannelAExact s) : ChannelAExact s.atBoundary :=
  h.congr s.atBoundary_settings.1 s.atBoundary_settings.2.1 s.atBoundary_settings.2.2

/-- The step outside a delay slot is the boundary's (rule R433). -/
theorem step_runBoundary (hturn : s.cpuTurn = true) (hrun : s.proc = .run) (hbus : s.bsc.released = false)
    (hslot : s.slot = none) : step s = mapNext settle (runBoundary s.atCpuStep) := by
  rw [step_run hturn hrun hbus, runInstruction, show s.atCpuStep.slot = none from hslot]

/-- A boundary by the hits of its instruction. -/
theorem runBoundary_hits {hits : FetchHits} (h : ubcFetchHits s.pc s.atBoundary = (hits, s.atBoundary)) :
    runBoundary s.atCpuStep =
      if (ubcPre hits s.atBoundary).1 && breakTakeable s.atBoundary then
        enter 12 s.pc (some 15) (ubcPre hits s.atBoundary).2
      else fetchDecode (fun t => ubcMark (latchPre hits t)) s.atBoundary (boundaryDecoded hits) := by
  have hunfold : runBoundary s.atCpuStep =
      (let h := ubcFetchHits s.atBoundary.pc s.atBoundary
       let p := ubcPre h.1 h.2
       if p.1 && breakTakeable h.2 then enter 12 h.2.pc (some 15) p.2
       else fetchDecode (fun t => ubcMark (latchPre h.1 t)) h.2 (boundaryDecoded h.1)) := rfl
  rw [hunfold, s.atBoundary_pc]
  simp only [h, s.atBoundary_pc]

/-- A decoded instruction runs that has no hit before it, whose slot the UBC misses, and where nothing is accepted. -/
theorem boundaryDecoded_runs {hits : FetchHits} (hpreA : hits.preA = false) (hpreB : hits.preB = false)
    (hmiss : s.ubcMisses (s.pc + 2) = true) (hnone : acceptance s = none) (i : Instr) :
    boundaryDecoded hits i s = runDecoded hits i (ubcMark s) := by
  obtain ⟨hsame, hslotA, hslotB, -, -⟩ := ubcFetchHits_misses hmiss
  by_cases hslot : takesSlot i s
  · rw [boundaryDecoded, if_pos hslot]
    simp only [hsame, latchPre_none hpreA hpreB, ubcPre_none hslotA hslotB, latchPre_none hslotA hslotB, hnone,
      Bool.false_and, Bool.false_eq_true, if_false]
  · simp [boundaryDecoded, hslot, latchPre_none hpreA hpreB, ubcPre_none (h := noHits s) rfl rfl,
      latchPre_none (h := noHits s) rfl rfl, hnone]

/-- At channel A's address the boundary has the hits of channel A. -/
theorem ChannelAExact.boundaryHits (h : ChannelAExact s) (heven : bitOf s.pc 0 = false)
    (hset : s.ubc.regs.a.bbr = 0x0054) (hat : s.ubc.regs.a.bar = s.pc) :
    ubcFetchHits s.pc s.atBoundary = (hitsA s.ubc.regs, s.atBoundary) := by
  have hregs := s.atBoundary_settings.1
  have hits := h.atBoundary.fetchHits (by rw [hregs]; exact hset) (by rw [hregs, hat]; exact heven)
  rwa [hregs, hat] at hits

/-- The break before execution is the entry of vector 12 (rules R433 step 2, R512). -/
theorem ChannelAExact.break_before (h : ChannelAExact s) (hturn : s.cpuTurn = true) (hrun : s.proc = .run)
    (hbus : s.bsc.released = false) (hslot : s.slot = none) (heven : bitOf s.pc 0 = false)
    (hset : s.ubc.regs.a.bbr = 0x0054) (hat : s.ubc.regs.a.bar = s.pc) (hbrcr : s.ubc.regs.brcr = 0)
    (hblock : s.irqBlock = false) (hmask : s.mask < 15) :
    step s = mapNext settle (enter 12 s.pc (some 15) (noteA true s.atBoundary)) := by
  have hcore := s.atBoundary_only.same
  have htake : breakTakeable s.atBoundary = true := by
    have hm : s.atBoundary.mask < 15 := by rw [hcore.mask]; exact hmask
    have hb : s.atBoundary.irqBlock = false := hcore.irqBlock.trans hblock
    simp [breakTakeable, hm, hb]
  rw [step_runBoundary hturn hrun hbus hslot, runBoundary_hits (h.boundaryHits heven hset hat), ubcPre_hitsA hbrcr]
  simp [htake]

/-- The break after execution is requested as the instruction runs (rule R513). -/
theorem ChannelAExact.break_after (h : ChannelAExact s) (hturn : s.cpuTurn = true) (hrun : s.proc = .run)
    (hbus : s.bsc.released = false) (hslot : s.slot = none) (heven : bitOf s.pc 0 = false)
    (hset : s.ubc.regs.a.bbr = 0x0054) (hat : s.ubc.regs.a.bar = s.pc) (hbrcr : s.ubc.regs.brcr = 0x400)
    (hselect : intcSelect s.atBoundary = none) (hdtc : s.dtc.addressError = false)
    (hf : fetchHalf s.atBoundary s.pc = .ok w u) (hd : decode w = .ok i) :
    step s = mapNext (fun t => settle (tickWindows t)) (exec i (requestBreak (noteA true (ubcMark u)))) := by
  have hpreA := hitsA_noPre hbrcr
  have hnone : acceptance u = none :=
    acceptance_none ((intcSelect_fetch (fetchHalf_ok hf)).trans hselect)
      ((congrArg Dtc.addressError (fetchHalf_atBoundary_dtc hf)).trans hdtc)
  have hpc : u.pc = s.pc := (fetchHalf_atBoundary_same hf).pc
  have hmiss : u.ubcMisses (u.pc + 2) = true := by
    obtain ⟨v, d, b, hu, keeps, -⟩ := fetchHalf_ok hf
    have hregs : u.ubc.regs = s.ubc.regs := by rw [hu]; exact keeps.regs.trans s.atBoundary_settings.1
    have hlag : u.ubc.lag = s.ubc.lag := by rw [hu, h.lag]; exact keeps.lag h.atBoundary.lag
    have hpower : u.power = s.power := by rw [hu]; exact s.atBoundary_settings.2.2
    refine (h.congr hregs hlag hpower).misses (by rw [hregs]; exact hset) ?_
    rw [hpc, hregs, hat]
    bv_omega
  have hf' : fetchHalf s.atBoundary s.atBoundary.pc = .ok w u := by rw [s.atBoundary_pc]; exact hf
  rw [step_runBoundary hturn hrun hbus hslot, runBoundary_hits (h.boundaryHits heven hset hat),
    ubcPre_none hpreA rfl, Bool.false_and, if_neg Bool.false_ne_true, fetchDecode_ok hf' hd,
    boundaryDecoded_runs hpreA rfl hmiss hnone, runDecoded, ubcPost_hitsA hbrcr, mapNext_mapNext]

/-! ## The data access (rules R511, R514) -/

/-- The cycle of a data access, matched by channel A alone and without its data: the break is requested at once. -/
theorem ChannelAExact.observe_eq (h : ChannelAExact s) (hset : s.ubc.regs.a.bbr = 0x006C)
    (hbrcr : s.ubc.regs.brcr = 0) (write : Bool) (z : Size) (a v : Word) :
    ubcObserve (dataCycle write z a v) s =
      if (a ^^^ s.ubc.regs.a.bar) &&& cmpMask z = 0 then requestBreak (noteA true s.drawBit.2.drawBit.2)
      else noteA false s.drawBit.2.drawBit.2 := by
  have hquiet : s.ubcQuiet = false := h.not_quiet (by rw [hset]; decide)
  have hseq : s.ubc.regs.seq = false := by rw [UbcRegs.seq, hbrcr]; decide
  have hida : s.ubc.regs.ubida = false := by rw [UbcRegs.ubida, hbrcr]; decide
  have hdbea : s.ubc.regs.dbea = false := by rw [UbcRegs.dbea, hbrcr]; decide
  rw [ubcObserve, hquiet, if_neg Bool.false_ne_true]
  simp only [h.effective, hdbea, channelMatches_data hset h.exact, channelMatches_off h.off]
  simp only [dataCycle, Bool.or_false, Bool.and_false, ubcMet_channelA hseq hida]
  by_cases hhit : (a ^^^ s.ubc.regs.a.bar) &&& cmpMask z = 0
  · rw [if_pos hhit, decide_eq_true hhit]
    rfl
  · rw [if_neg hhit, decide_eq_false hhit]
    rfl

/-- A plain operand lies on the L bus. -/
theorem State.plain_lBus {z : Size} {a : Word} (h : s.plain z a = true) : s.onIBus a = false := by
  obtain ⟨-, -, -, -, -, ⟨hregion, -⟩ | ⟨hregion, -⟩⟩ := State.plain_iff h <;> rw [State.onIBus, hregion]

/-- The state in which the UBC sees the cycle of a write has the UBC and the clocks of the state before it. -/
theorem State.written_ubc (s : State) (z : Size) (a v : Word) :
    (openStale s z a (s.store z a.toNat v)).ubc = s.ubc := by
  unfold openStale
  split <;> rfl

theorem State.written_samePlain (s : State) (z : Size) (a v : Word) :
    SamePlain s (openStale s z a (s.store z a.toNat v)) :=
  SamePlain.trans (by constructor <;> rfl) (openStale_samePlain s z a (s.store z a.toNat v))

/-- The access of a plain operand at channel A's address sets the flag and requests the break; one of another longword
leaves the flags and the request. -/
theorem ChannelAExact.observe (h : ChannelAExact s) (hset : s.ubc.regs.a.bbr = 0x006C) (hbrcr : s.ubc.regs.brcr = 0)
    {z : Size} {a : Word} (hplain : s.plain z a = true) (write : Bool) (v : Word) :
    (s.ubc.regs.a.bar = a → (observeCpu write z a v s).ubc.live.ca = true ∧
      (observeCpu write z a v s).ubc.live.pending = true) ∧
    (s.ubc.regs.a.bar >>> 2 ≠ a >>> 2 → (observeCpu write z a v s).ubc.live = s.ubc.live) := by
  have hone : observeCpu write z a v s = ubcObserve (dataCycle write z a v) s := by
    have hbus : (ubcObserve (dataCycle write z a v) s).onIBus a = false :=
      State.plain_lBus (((ubcObserve_only _ s).samePlain.plain z a).trans hplain)
    exact if_neg (Bool.eq_false_iff.1 hbus)
  rw [hone, h.observe_eq hset hbrcr]
  refine ⟨fun hat => ?hit, fun hother => ?miss⟩
  case hit =>
    rw [if_pos (by rw [hat]; simp)]
    exact ⟨noteA_hit _, rfl⟩
  case miss =>
    rw [if_neg (fun hcompare => hother (longword_eq_of_compare hcompare)), noteA_miss]
    rfl

end

/-- Settles O42: the hits of the fetch at pc, before and after execution, and the one cycle of a plain data access. -/
theorem userBreaks : Obligations.UserBreaks := by
  unfold Obligations.UserBreaks
  intro s hon hlag hexact hoff
  have h : ChannelAExact s := ⟨hon, hlag, hexact, hoff⟩
  refine ⟨fun hturn hrun hbus hslot heven hset hat => ⟨?before, ?after⟩, fun hset hbrcr z a v => ⟨?read, ?write⟩⟩
  case before =>
    intro hbrcr hblock hmask
    have hsame : Same s.atCpuStep (noteA true s.atBoundary) := (s.atBoundary_only.trans (noteA_only _ _)).same
    exact ⟨_, h.break_before hturn hrun hbus hslot heven hset hat hbrcr hblock hmask, noteA_hit _, hsame.untouched⟩
  case after =>
    intro hbrcr hselect hdtc w u i hf hd
    have hsame : Same s.atCpuStep (requestBreak (noteA true (ubcMark u))) :=
      (fetchHalf_atBoundary_same hf).trans
        (((ubcMark_only u).trans (noteA_only _ _)).trans (requestBreak_only _)).same
    exact ⟨_, h.break_after hturn hrun hbus hslot heven hset hat hbrcr hselect hdtc hf hd, noteA_hit _, rfl, hsame.pc,
      hsame.untouched⟩
  case read =>
    intro hplain
    exact ⟨_, cpuRead_plain hplain, h.observe hset hbrcr hplain false _⟩
  case write =>
    intro hplainRam
    have hplain := State.plainRam_plain hplainRam
    have hstored := s.written_samePlain z a v
    have hubc := s.written_ubc z a v
    have hwritten : ChannelAExact (openStale s z a (s.store z a.toNat v)) :=
      h.congr (congrArg Ubc.regs hubc) (congrArg Ubc.lag hubc) hstored.power
    have hobserve := hwritten.observe (by rw [hubc]; exact hset) (by rw [hubc]; exact hbrcr)
      ((hstored.plain z a).trans hplain) true v
    rw [hubc] at hobserve
    exact ⟨_, cpuWrite_plain v hplainRam, hobserve⟩

end Sys2Proof.Machine
end
